-- ==== Sys2Proof/Word.lean ====
section
/-! DEFINITION. The words of the part: bytes on a link, values of the time count, record sequence numbers, and the numbers of
lines, outputs and watch sets (spec/00_scope.md, "Conventions"). -/

namespace Sys2Proof

/-- One character of a link port, one byte of a frame. -/
abbrev Byte := BitVec 8

/-- A value of the time count, modulo 2^32 (R145). -/
abbrev Time := BitVec 32

/-- A record sequence number, modulo 65536 (R74). -/
abbrev Seq := BitVec 16

/-- The lines L0 to L63; L48 to L63 are the readback lines. -/
abbrev LineId := Fin 64

/-- The outputs O0 to O15. -/
abbrev OutId := Fin 16

/-- The watch sets W0 to W15. -/
abbrev SetId := Fin 16

/-- A fixed number of like records: the 64 lines, the 16 sets, the 16 outputs. -/
abbrev Tab (n : Nat) (α : Type) := Vector α n

end Sys2Proof
end

