-- ==== Sys2Proof/Syntax.lean ====
section
/-! DEFINITION. The commands of the block: one constructor for each of the 50 rows of spec/opcode_table.json, with the
operands that the row's rule gives its event. -/

namespace Sys2Proof

/-- The two link ports LA and LB, and with them the sessions A and B: a session is named by its port (00, "Conventions"). -/
inductive Port where
  | A
  | B
  deriving DecidableEq, Repr

/-- How the receiver found the stop bit of a character (R158). -/
inductive Framing where
  /-- the stop bit was at the idle level -/
  | good
  /-- the stop bit was sampled at the start level, and the line then went back to idle -/
  | error
  /-- the line was held at the start level for longer than one character -/
  | brk
  deriving DecidableEq, Repr

/-- The levels of the four bit-rate strap pins when a reset period ends (R157). -/
structure Straps where
  a1 : Bool
  a0 : Bool
  b1 : Bool
  b0 : Bool
  deriving DecidableEq, Repr

/-- How the reset period that a RESTART begins goes on (R149, R154; log 23). A further source that joins it later does so by its
own command. -/
inductive RestartPeriod where
  /-- it ends without any input from outside, with the straps at these levels -/
  | own (straps : Straps)
  /-- RSTn has also asserted reset before it could end -/
  | withPin
  /-- the supply-dip detector has also asserted reset before it could end -/
  | withDip
  deriving DecidableEq, Repr

/-- The steps of the part, each whole and indivisible (spec/95_what_each_step_holds.md). A request names the port whose
handler takes it: its tag and its arguments are those of the oldest frame of that port's request queue (R165, R176). -/
inductive Instr where
  /-- HELLO, R148 -/
  | hello (p : Port)
  /-- OPEN, R97 -/
  | openSession (p : Port)
  /-- CLOSE, R101 -/
  | close (p : Port)
  /-- PING, R102 -/
  | ping (p : Port)
  /-- SET_TIME, R146 -/
  | setTime (p : Port)
  /-- CONFIG_LINE, R19 -/
  | configLine (p : Port)
  /-- READ_LINE_CONFIG, R20 -/
  | readLineConfig (p : Port)
  /-- READ_LINES, R22 -/
  | readLines (p : Port)
  /-- READ_COUNTERS, R21 -/
  | readCounters (p : Port)
  /-- DEFINE_SET, R35 -/
  | defineSet (p : Port)
  /-- ARM_SET, R37 -/
  | armSet (p : Port)
  /-- DISARM_SET, R38 -/
  | disarmSet (p : Port)
  /-- DELETE_SET, R39 -/
  | deleteSet (p : Port)
  /-- READ_SET, R40 -/
  | readSet (p : Port)
  /-- ACK_SET, R41 -/
  | ackSet (p : Port)
  /-- RESYNC_SET, R43 -/
  | resyncSet (p : Port)
  /-- ADOPT_SET, R113 -/
  | adoptSet (p : Port)
  /-- ACK, R87 -/
  | ack (p : Port)
  /-- JOURNAL_STATUS, R69 -/
  | journalStatus (p : Port)
  /-- CLAIM_OUTPUT, R132 -/
  | claimOutput (p : Port)
  /-- RELEASE_OUTPUT, R134 -/
  | releaseOutput (p : Port)
  /-- WRITE_OUTPUTS, R135 -/
  | writeOutputs (p : Port)
  /-- CONFIG_OUTPUT, R136 -/
  | configOutput (p : Port)
  /-- READ_OUTPUTS, R137 -/
  | readOutputs (p : Port)
  /-- RESTART, R152 -/
  | restart (p : Port)
  /-- REJECT, R171 -/
  | reject (p : Port)
  /-- RAW_EDGE, R3 -/
  | rawEdge (l : LineId)
  /-- SETTLE_EXPIRY, R5 -/
  | settleExpiry (l : LineId)
  /-- DEBOUNCE_EXPIRY, R8 -/
  | debounceExpiry (l : LineId)
  /-- CHATTER_WINDOW_EXPIRY, R9 -/
  | chatterWindowExpiry (l : LineId)
  /-- QUIET_EXPIRY, R12 -/
  | quietExpiry (l : LineId)
  /-- NOTICE_BUILD, R76 -/
  | noticeBuild (p : Port)
  /-- RETRANSMIT_EXPIRY, R83 -/
  | retransmitExpiry (p : Port)
  /-- SILENCE_EXPIRY, R103 -/
  | silenceExpiry (p : Port)
  /-- RETAIN_EXPIRY, R106 -/
  | retainExpiry (p : Port)
  /-- GRACE_EXPIRY, R130 -/
  | graceExpiry (o : OutId)
  /-- VERIFY_EXPIRY, R139 -/
  | verifyExpiry (o : OutId)
  /-- CHARACTER_RECEIVED, R160: the data bits and how the stop bit was -/
  | characterReceived (p : Port) (c : Byte) (stop : Framing)
  /-- GAP_EXPIRY, R162 -/
  | gapExpiry (p : Port)
  /-- RESPONSE_SEND, R169 -/
  | responseSend (p : Port)
  /-- FRAME_END, R168 -/
  | frameEnd (p : Port)
  /-- RESTART_RESET, R154: the port whose RESTART response has left, and how the reset period it begins goes on -/
  | restartReset (p : Port) (period : RestartPeriod)
  /-- POWER_ON, R149 -/
  | powerOn (straps : Straps)
  /-- RSTN_LOW, R150 -/
  | rstnLow
  /-- RSTN_HIGH, R150 -/
  | rstnHigh (straps : Straps)
  /-- SUPPLY_DIP, R151 -/
  | supplyDip
  /-- SUPPLY_DIP_END, R151 -/
  | supplyDipEnd (straps : Straps)
  /-- SAMPLE, R3: bit k is the raw level of the pin that line Lk senses -/
  | sample (raw : BitVec 64)
  /-- LINE_RETURNS_TO_IDLE, R158 -/
  | lineReturnsToIdle (p : Port)
  /-- SUPPLY_BELOW_POWER_ON_THRESHOLD, R151 -/
  | supplyBelowPowerOn
  deriving DecidableEq, Repr

end Sys2Proof
end

