-- ==== Sys2Proof/Decode.lean ====
section
/-! DEFINITION. The command that a word spells by the table's bits. No row of spec/opcode_table.json gives bits ("fields" is
empty in all 50 rows), so no word spells a command (log 18). -/

namespace Sys2Proof

/-- No row of the table has bits, so every word is refused. -/
def decodeTableWord (_nbits _w : Nat) : Option Instr := none

end Sys2Proof
end

