-- ==== Sys2Proof/Config.lean ====
section
/-! DEFINITION. What the silicon fixes (identity, sizes, limits) and the one free value: the orders that the spec leaves open. -/

namespace Sys2Proof

/-- Vendor code of HELLO (R148). -/
def Config.vendorCode : Nat := 0x3E91
/-- Part code of HELLO (R148). -/
def Config.partCode : Nat := 0x4816
/-- Silicon revision of HELLO (R148). -/
def Config.revision : Nat := 1
/-- Record slots of the pool (R47). -/
def Config.slots : Nat := 256
/-- Slots set aside for each session (R47). -/
def Config.reserveSlots : Nat := 64
/-- Slots either session may use (R47). -/
def Config.sharedSlots : Nat := 128
/-- The most records one session may hold (R48). -/
def Config.sessionCap : Nat := 192
/-- The most frames each queue of a port holds (R168). -/
def Config.queueDepth : Nat := 4
/-- The most records in one notice (R77). -/
def Config.noticeRecords : Nat := 8
/-- The most bytes the records of one notice take (R77). -/
def Config.noticeBytes : Nat := 238
/-- The SYNC character of a frame (R159). -/
def Config.sync : Byte := 0x96
/-- The gap limit of a frame in reception, in milliseconds (R162). -/
def Config.gapLimit : Nat := 10
/-- Samples of the Line Front End in one millisecond (R4). -/
def Config.samplesPerMs : Nat := 4

/-- FREE VALUE (logs 4, 6 and 7). Where the spec lets several parts of one moment be taken in either order, the order is
built from this: `freeIndex use left` says which of the remaining parts comes next. It has no body, so nothing proved of
the model rests on a particular order. -/
opaque Config.freeIndex : Nat → Nat → Nat

end Sys2Proof
end

