-- ==== Sys2Proof/Machine/Table.lean ====
section
/-! DEFINITION. Fixed tables of like records, and records held once per port. -/

namespace Sys2Proof

/-- Entry i of a table. -/
def Tab.at {n : Nat} {α : Type} (t : Tab n α) (i : Fin n) : α := t.get i

/-- The table with entry i replaced. -/
def Tab.put {n : Nat} {α : Type} (t : Tab n α) (i : Fin n) (x : α) : Tab n α := t.set i.val x i.isLt

/-- Every entry rewritten by a function of its number and its content. -/
def Tab.update {n : Nat} {α : Type} (f : Fin n → α → α) (t : Tab n α) : Tab n α :=
  ⟨((List.finRange n).map fun i => f i (t.at i)).toArray, by simp⟩

/-- The same entry n times. -/
def Tab.replicate (n : Nat) {α : Type} (x : α) : Tab n α := Vector.replicate n x

/-- One record for port LA and one for port LB. -/
structure PerPort (α : Type) where
  a : α
  b : α
  deriving DecidableEq, Repr

/-- The record of a port. -/
def PerPort.at {α : Type} (t : PerPort α) : Port → α
  | .A => t.a
  | .B => t.b

/-- The two records with one port's replaced. -/
def PerPort.put {α : Type} (t : PerPort α) (p : Port) (x : α) : PerPort α :=
  match p with
  | .A => { t with a := x }
  | .B => { t with b := x }

/-- The port that is not p; the session that is not p's. -/
def Port.other : Port → Port
  | .A => .B
  | .B => .A

/-- The line that senses output Ok: L(48+k) (R3). -/
def OutId.readback (o : OutId) : LineId := ⟨48 + o.val, by omega⟩

/-- The output that a readback line senses; none for a field line (00, "Lines"). -/
def LineId.sensed (l : LineId) : Option OutId :=
  if h : 48 ≤ l.val then some ⟨l.val - 48, by omega⟩ else none

/-- x put into an ascending list without duplicates; a list that holds x stays as it is (R110). -/
def insertAscending {n : Nat} (x : Fin n) : List (Fin n) → List (Fin n)
  | [] => [x]
  | y :: ys => if x = y then y :: ys else if x < y then x :: y :: ys else y :: insertAscending x ys

end Sys2Proof
end

