-- ==== Sys2Proof/Machine/State.lean ====
section
/-! DEFINITION. The state of the part: the records of its blocks as the chapters give them, the queue of waiting commands,
and the reset state. A timer holds the number of the sample at which it expires: the line and verify timers because R4 and
R138 count in samples, the millisecond timers because four samples are a millisecond (R145; log 5). -/

namespace Sys2Proof.Machine

open Sys2Proof

/-- Who stops the part: nobody. The spec gives every event an effect and answers every request, so no command faults; there is
nothing safe or unsafe here. -/
inductive Fault where
  deriving DecidableEq, Repr

/-- Why a command has no meaning. -/
inductive Refusal where
  /-- Raised by an arm of exec whose command has no meaning yet (safe: nothing is claimed of it). No arm raises it now. -/
  | notModelled (mnemonic : String)
  deriving DecidableEq, Repr

/-! ### Lines (chapter 1) -/

/-- Which debounced changes the edge counter counts (R1, R16). -/
inductive CountedEdge where
  | none
  | rising
  | falling
  | both
  deriving DecidableEq, Repr

/-- The configuration part of a line record (R1); times in milliseconds. -/
structure LineConfig where
  enable : Bool
  invert : Bool
  debounce : Nat
  chatterLimit : Nat
  chatterWindow : Nat
  counted : CountedEdge
  deriving DecidableEq, Repr

/-- The line state with what is present in it (R2): D, the pending edge stamp, and the expiry sample of the one timer that
the state runs. -/
inductive LineState where
  /-- D as it was when the line was disabled; none is unknown (R14) -/
  | disabled (d : Option Bool)
  /-- the settle timer, stopped until the first sample after entry (R5) -/
  | init (settle : Option Nat)
  | stable (d : Bool)
  /-- D, the pending edge stamp and the debounce expiry (R6) -/
  | pending (d : Bool) (stamp : Time) (expiry : Nat)
  /-- the frozen D and the quiet expiry (R10) -/
  | chatter (d : Bool) (quiet : Nat)
  deriving DecidableEq, Repr

/-- One line record (R1, R2). -/
structure LineRec where
  config : LineConfig
  state : LineState
  lastRaw : Option Bool
  /-- the level of the sample in progress while the line has yet to take it (log 4) -/
  waiting : Option Bool
  chatterCount : Nat
  windowTimer : Option Nat
  edges : Nat
  deriving DecidableEq, Repr

/-! ### Watch sets (chapter 2) -/

/-- The modes of a watch set (R23). -/
inductive SetMode where
  | each
  | latest
  | summary
  deriving DecidableEq, Repr

/-- Why a set is STALE (R23). -/
inductive StaleReason where
  | overrun
  | adopted
  deriving DecidableEq, Repr

/-- The states of a set that is not FREE, the stale reason with STALE (R23, R24). -/
inductive SetPhase where
  | idle
  | armed
  | stale (why : StaleReason)
  deriving DecidableEq, Repr

/-- A set record that is not FREE (R23). The snapshot, when present, holds one level for each member in the members' order. -/
structure WatchSet where
  owner : Port
  mode : SetMode
  members : List LineId
  snapshot : Option (List Bool)
  phase : SetPhase
  attention : Bool
  deriving DecidableEq, Repr

/-! ### Records and journals (chapter 3) -/

/-- The kind of a record with the fields of its kind (R51). -/
inductive RecBody where
  /-- CHANGE: set, line, level, and the fold count with the last stamp, both present or both absent (R52) -/
  | change (w : SetId) (l : LineId) (level : Bool) (folded : Option (Nat × Time))
  | chatterStart (w : SetId) (l : LineId) (level : Bool)
  | chatterEnd (w : SetId) (l : LineId) (level : Bool)
  /-- RESYNC_MARK: one level for each member of the set (R54) -/
  | resyncMark (w : SetId) (levels : List Bool)
  | outputFault (o : OutId) (driven readback : Bool)
  | timeMark (old new : Time)
  | void (w : SetId)
  deriving DecidableEq, Repr

/-- A record: its stamp and its content (R51). -/
structure Rec where
  stamp : Time
  body : RecBody
  deriving DecidableEq, Repr

/-- An INFLIGHT record: a record with the sequence number it keeps (R50). -/
structure Sent where
  seq : Seq
  entry : Rec
  deriving DecidableEq, Repr

/-- A session's journal in its two parts, INFLIGHT records in front of UNSENT ones (R49). -/
structure Journal where
  inflight : List Sent
  unsent : List Rec
  deriving DecidableEq, Repr

/-! ### Notice Engines and sessions (chapters 4 and 5) -/

/-- A Notice Engine (R71). -/
structure Engine where
  nextSeq : Seq
  retryCount : Nat
  retransmit : Option Nat
  goBack : Option Seq
  noticeNumber : Byte
  statusChanged : Bool
  deriving DecidableEq, Repr

/-- The parameters that OPEN gives a session (R93, R98); keepalive and retry timeout in milliseconds, retain in seconds. -/
structure Params where
  tag : BitVec 16
  keepalive : Nat
  retain : Nat
  window : Nat
  retryTimeout : Nat
  retryLimit : Nat
  deriving DecidableEq, Repr

/-- Why a session lapsed (R93). -/
inductive LapseReason where
  | silence
  | retry
  deriving DecidableEq, Repr

/-- The session state with what is present in it (R93): the silence timer runs in OPEN, the retain timer in LAPSED. -/
inductive SessState where
  | closed
  | opened (prm : Params) (silence : Nat)
  | lapsed (prm : Params) (why : LapseReason) (retain : Nat)
  deriving DecidableEq, Repr

/-- A session record (R93). -/
structure Session where
  state : SessState
  loss : Bool
  lostSets : List SetId
  lostOutputs : List OutId
  deriving DecidableEq, Repr

/-! ### Outputs (chapter 7) -/

/-- The output state with its owner; the grace timer runs in GRACE (R127, R129). -/
inductive OutState where
  | free
  | owned (p : Port)
  | grace (p : Port) (expiry : Nat)
  | safeHeld (p : Port)
  deriving DecidableEq, Repr

/-- The verify state; in WAITING the verify timer, which starts at the first sample after the change (R138). -/
inductive VerifyState where
  | off
  | waiting (expiry : Option Nat)
  | deferred
  | ok
  | unverified
  deriving DecidableEq, Repr

/-- An output record (R127); grace and verify time in milliseconds. The driven level is computed (`Output.driven`, R128). -/
structure Output where
  state : OutState
  latch : Bool
  safe : Bool
  grace : Nat
  verifyEnable : Bool
  verifyTime : Nat
  verify : VerifyState
  fault : Bool
  deriving DecidableEq, Repr

/-! ### Link ports (chapters 9 and 10) -/

/-- What a frame carries inside its envelope (R159). -/
structure Frame where
  kind : Byte
  tag : Byte
  payload : List Byte
  deriving DecidableEq, Repr

/-- The bit rates a port's straps select (R157). -/
inductive BitRate where
  | r115200
  | r230400
  | r460800
  | r921600
  deriving DecidableEq, Repr

/-- The frame receiver: its state, the frame in reception and the gap timer, which runs outside HUNT (R160, R162). -/
inductive Receiver where
  | hunt
  | length (gap : Nat)
  /-- LEN and the bytes of KIND, TAG and PAYLOAD stored so far -/
  | body (len : Byte) (got : List Byte) (gap : Nat)
  /-- LEN, the stored bytes, and the low byte of the received check once it is taken -/
  | crc (len : Byte) (got : List Byte) (low : Option Byte) (gap : Nat)
  deriving DecidableEq, Repr

/-- A link port (chapter 9, opening table; R153, R158). -/
structure LinkPort where
  bitRate : BitRate
  receiver : Receiver
  /-- the receiver waits for an idle line before it recognises a start bit (R158, R170) -/
  awaitIdle : Bool
  requests : List Frame
  responses : List Frame
  sending : Option Frame
  discarded : Nat
  overrun : Bool
  restartPending : Bool
  deriving DecidableEq, Repr

/-! ### The Timebase and the whole part -/

/-- Why the part was last reset (R149). -/
inductive ResetCause where
  | powerOn
  | pin
  | restart
  | supplyDip
  deriving DecidableEq, Repr

/-- The part. -/
structure State where
  /-- the time count (R145) -/
  time : Time
  /-- the samples taken since the reset ended (log 5) -/
  now : Nat
  resetCause : ResetCause
  resetCount : Nat
  /-- the cause that the reset period in progress will record; none outside a reset (R149) -/
  resetPeriod : Option ResetCause
  rstnLow : Bool
  dipLow : Bool
  powerLow : Bool
  lines : Tab 64 LineRec
  sets : Tab 16 (Option WatchSet)
  outputs : Tab 16 Output
  sessions : PerPort Session
  journals : PerPort Journal
  engines : PerPort Engine
  ports : PerPort LinkPort
  /-- how many free orders have been used (log 6) -/
  choice : Nat
  /-- the waiting commands, first in, first out -/
  pending : List Instr
  deriving DecidableEq, Repr

/-- The configuration of a line after every reset (R1). -/
def LineConfig.reset : LineConfig :=
  { enable := true, invert := false, debounce := 10, chatterLimit := 0, chatterWindow := 1000, counted := .both }

/-- A line record after every reset (R2). -/
def LineRec.reset : LineRec :=
  { config := LineConfig.reset, state := .init none, lastRaw := none, waiting := none, chatterCount := 0,
    windowTimer := none, edges := 0 }

/-- An output record after every reset (R127, R138). -/
def Output.reset : Output :=
  { state := .free, latch := false, safe := false, grace := 0, verifyEnable := true, verifyTime := 20, verify := .off,
    fault := false }

/-- An empty journal (R49). -/
def Journal.empty : Journal := { inflight := [], unsent := [] }

/-- A Notice Engine after every reset and at a fresh open (R71, R72). -/
def Engine.reset : Engine :=
  { nextSeq := 1, retryCount := 0, retransmit := none, goBack := none, noticeNumber := 0, statusChanged := false }

/-- A session record after every reset (R93). -/
def Session.reset : Session := { state := .closed, loss := false, lostSets := [], lostOutputs := [] }

/-- A port after every reset, at the rate its straps gave (R157, R170). -/
def LinkPort.reset (rate : BitRate) : LinkPort :=
  { bitRate := rate, receiver := .hunt, awaitIdle := true, requests := [], responses := [], sending := none,
    discarded := 0, overrun := false, restartPending := false }

/-- The part right after a reset (R156). The spec fixes neither which reset came last nor the strap levels: a power-on with
both straps of each port at 0 is taken (DESIGN CHOICE, unsafe, log 10). -/
def State.reset : State :=
  { time := 0, now := 0, resetCause := .powerOn, resetCount := 0, resetPeriod := none, rstnLow := false, dipLow := false,
    powerLow := false, lines := Tab.replicate 64 LineRec.reset, sets := Tab.replicate 16 none,
    outputs := Tab.replicate 16 Output.reset, sessions := ⟨Session.reset, Session.reset⟩,
    journals := ⟨Journal.empty, Journal.empty⟩, engines := ⟨Engine.reset, Engine.reset⟩,
    ports := ⟨LinkPort.reset .r115200, LinkPort.reset .r115200⟩, choice := 0, pending := [] }

/-- The result of one step of the part. -/
abbrev Result := Host.Outcome State Fault Refusal

end Sys2Proof.Machine
end

