-- ==== Sys2Proof/Machine/Access.lean ====
section
/-! DEFINITION. Reading and replacing one record of the state: every read and write of a record goes through these. -/

namespace Sys2Proof.Machine

open Sys2Proof

def State.putLine (s : State) (l : LineId) (r : LineRec) : State := { s with lines := s.lines.put l r }

def State.putSet (s : State) (w : SetId) (ws : Option WatchSet) : State := { s with sets := s.sets.put w ws }

def State.putOutput (s : State) (o : OutId) (r : Output) : State := { s with outputs := s.outputs.put o r }

def State.putSession (s : State) (p : Port) (r : Session) : State := { s with sessions := s.sessions.put p r }

def State.putJournal (s : State) (p : Port) (j : Journal) : State := { s with journals := s.journals.put p j }

def State.putEngine (s : State) (p : Port) (e : Engine) : State := { s with engines := s.engines.put p e }

def State.putPort (s : State) (p : Port) (r : LinkPort) : State := { s with ports := s.ports.put p r }

/-- Every line record rewritten. -/
def State.updateLines (s : State) (f : LineId → LineRec → LineRec) : State := { s with lines := s.lines.update f }

/-- Every set record rewritten. -/
def State.updateSets (s : State) (f : SetId → Option WatchSet → Option WatchSet) : State :=
  { s with sets := s.sets.update f }

/-- Every output record rewritten. -/
def State.updateOutputs (s : State) (f : OutId → Output → Output) : State := { s with outputs := s.outputs.update f }

/-- A reset is asserted: a reset period is in progress (R149). -/
def State.inReset (s : State) : Bool := s.resetPeriod.isSome

/-- The sample at which a timer of t milliseconds started now expires (R4, R145; log 5). -/
def State.after (s : State) (ms : Nat) : Nat := s.now + Config.samplesPerMs * ms

/-- D: the debounced level that the line state holds, none when it is unknown (R2). -/
def LineState.level : LineState → Option Bool
  | .disabled d => d
  | .init _ => none
  | .stable d => some d
  | .pending d _ _ => some d
  | .chatter d _ => some d

/-- D of a line. -/
def State.level (s : State) (l : LineId) : Option Bool := (s.lines.at l).state.level

/-- The owner of an output; absent in FREE (R127). -/
def OutState.owner : OutState → Option Port
  | .free => none
  | .owned p => some p
  | .grace p _ => some p
  | .safeHeld p => some p

/-- The driven level: the latch in OWNED and GRACE, the safe level in FREE and SAFE_HELD (R128). The pin follows it. -/
def Output.driven (o : Output) : Bool :=
  match o.state with
  | .free => o.safe
  | .owned _ => o.latch
  | .grace _ _ => o.latch
  | .safeHeld _ => o.safe

/-- The session is OPEN. -/
def SessState.isOpen : SessState → Bool
  | .closed => false
  | .opened _ _ => true
  | .lapsed _ _ _ => false

/-- The session is LAPSED. -/
def SessState.isLapsed : SessState → Bool
  | .closed => false
  | .opened _ _ => false
  | .lapsed _ _ _ => true

/-- The session on a port is OPEN. -/
def State.isOpen (s : State) (p : Port) : Bool := (s.sessions.at p).state.isOpen

/-- The session on a port is LAPSED. -/
def State.isLapsed (s : State) (p : Port) : Bool := (s.sessions.at p).state.isLapsed

/-- The set that a set-bound record carries (R51). -/
def RecBody.set? : RecBody → Option SetId
  | .change w _ _ _ => some w
  | .chatterStart w _ _ => some w
  | .chatterEnd w _ _ => some w
  | .resyncMark w _ => some w
  | .outputFault _ _ _ => none
  | .timeMark _ _ => none
  | .void w => some w

/-- The record is bound to the set w. -/
def Rec.ofSet (w : SetId) (r : Rec) : Bool := r.body.set? = some w

/-- The number of records in a journal, VOID records included (R47). -/
def Journal.holding (j : Journal) : Nat := j.inflight.length + j.unsent.length

/-- The records of a journal in journal order (R49). -/
def Journal.records (j : Journal) : List Rec := j.inflight.map Sent.entry ++ j.unsent

/-- The part of a holding that is counted against the shared slots: what lies beyond the reserve (R47). -/
def sharedPart (holding : Nat) : Nat := holding - Config.reserveSlots

/-- The shared slots free (R47). -/
def State.sharedFree (s : State) : Nat :=
  Config.sharedSlots - sharedPart (s.journals.at .A).holding - sharedPart (s.journals.at .B).holding

/-- The sequence number of the oldest INFLIGHT record, or L when none is INFLIGHT (R69, R89, R100). -/
def State.oldestInflight (s : State) (p : Port) : Seq :=
  match (s.journals.at p).inflight with
  | [] => (s.engines.at p).nextSeq - 1
  | x :: _ => x.seq

end Sys2Proof.Machine
end

