-- ==== Sys2Proof/Machine/Flags.lean ====
section
/-! DEFINITION. Flags, marks, masks and saturating counts: how each is computed, raised and cleared. -/

namespace Sys2Proof.Machine

open Sys2Proof

/-- The members counted as mismatched, in ascending order: D differs from the snapshot, or the snapshot is absent, or D is
unknown (R25). -/
def mismatchOf (level : LineId → Option Bool) (members : List LineId) : Option (List Bool) → List LineId
  | none => members
  | some snap => ((members.zip snap).filter fun m => decide (level m.1 ≠ some m.2)).map Prod.fst

/-- The mismatch of a set under given levels (R25). -/
def WatchSet.mismatch (ws : WatchSet) (level : LineId → Option Bool) : List LineId :=
  mismatchOf level ws.members ws.snapshot

/-- The set is ARMED or STALE. -/
def WatchSet.inUse (ws : WatchSet) : Bool :=
  match ws.phase with
  | .idle => false
  | .armed => true
  | .stale _ => true

/-- The set is STALE. -/
def WatchSet.isStale (ws : WatchSet) : Bool :=
  match ws.phase with
  | .idle => false
  | .armed => false
  | .stale _ => true

/-- The stale mask of a session (R25). -/
def State.staleMask (s : State) (p : Port) (w : SetId) : Bool :=
  match s.sets.at w with
  | none => false
  | some ws => decide (ws.owner = p) && ws.isStale

/-- The attention mask of a session (R25). -/
def State.attentionMask (s : State) (p : Port) (w : SetId) : Bool :=
  match s.sets.at w with
  | none => false
  | some ws => decide (ws.owner = p) && ws.attention

/-- The status-changed mark of a session is raised (R80). -/
def State.raiseStatus (s : State) (p : Port) : State :=
  s.putEngine p { s.engines.at p with statusChanged := true }

/-- A session-wide record was lost: the loss flag is set, and its passage from clear to set raises the status-changed mark
(R61). -/
def State.noteLoss (s : State) (p : Port) : State :=
  if (s.sessions.at p).loss then s
  else (s.putSession p { s.sessions.at p with loss := true }).raiseStatus p

/-- The edge counter after a debounced change to a level: the kinds the line counts add 1, and the counter stays at
4294967295 (R16). -/
def countEdge (counted : CountedEdge) (level : Bool) (n : Nat) : Nat :=
  let one := min 4294967295 (n + 1)
  match counted with
  | .none => n
  | .rising => if level then one else n
  | .falling => if level then n else one
  | .both => one

/-- The fold count after one more absorbed change: present at 1 with the first, staying at 255 (R28). -/
def foldCount : Option (Nat × Time) → Nat
  | none => 1
  | some (n, _) => min 255 (n + 1)

/-- The discarded count after one more discard; it stays at 255 (R163). -/
def countDiscard (n : Nat) : Nat := min 255 (n + 1)

/-- The reset count that a reset writes as it ends (R149). -/
def countReset (cause : ResetCause) (n : Nat) : Nat :=
  match cause with
  | .powerOn => 0
  | .pin => min 255 (n + 1)
  | .restart => min 255 (n + 1)
  | .supplyDip => min 255 (n + 1)

end Sys2Proof.Machine
end

