-- ==== Sys2Proof/Machine/Operands.lean ====
section
/-! DEFINITION. The wire: byte order, field encodings, the frame check, how the arguments of a request are read from its
payload, and how records are encoded (spec/09_link_ports.md 9.2, spec/10_message_formats_and_request_handling.md). -/

namespace Sys2Proof.Machine

open Sys2Proof

/-! ### Bytes and masks (R175) -/

/-- The byte with this value, modulo 256. -/
def byteOf (n : Nat) : Byte := BitVec.ofNat 8 n

/-- A number in k bytes, least significant byte first (R175). -/
def leBytes : Nat → Nat → List Byte
  | 0, _ => []
  | k + 1, n => byteOf n :: leBytes k (n / 256)

/-- The number that bytes hold, least significant byte first (R175). -/
def leNat : List Byte → Nat
  | [] => 0
  | b :: bs => b.toNat + 256 * leNat bs

/-- The number whose bit i is the i-th of the list. -/
def bitsToNat : List Bool → Nat
  | [] => 0
  | b :: bs => b.toNat + 2 * bitsToNat bs

/-- A mask of k bytes over n numbered things: bit i of byte j stands for number 8j + i (R175). -/
def maskBytes (k n : Nat) (holds : Fin n → Bool) : List Byte := leBytes k (bitsToNat ((List.finRange n).map holds))

/-- A member level list: bit i of byte j is the level of the (8j + i)-th member; bits beyond the last are 0 (R175). -/
def levelListBytes (levels : List Bool) : List Byte := leBytes ((levels.length + 7) / 8) (bitsToNat levels)

/-- A flag or a level in one byte (R175). -/
def flagByte (b : Bool) : Byte := if b then 1 else 0

/-- A level that may be unknown (R175). -/
def levelByte : Option Bool → Byte
  | some false => 0
  | some true => 1
  | none => 2

def CountedEdge.byte : CountedEdge → Byte
  | .none => 0
  | .rising => 1
  | .falling => 2
  | .both => 3

def SetMode.byte : SetMode → Byte
  | .each => 0
  | .latest => 1
  | .summary => 2

/-- IDLE 1, ARMED 2, STALE 3 (R175). -/
def SetPhase.byte : SetPhase → Byte
  | .idle => 1
  | .armed => 2
  | .stale _ => 3

/-- The stale reason of a set: none 0, OVERRUN 1, ADOPTED 2 (R175). -/
def SetPhase.reasonByte : SetPhase → Byte
  | .idle => 0
  | .armed => 0
  | .stale .overrun => 1
  | .stale .adopted => 2

/-- Owner: none 0, session A 1, session B 2 (R175). -/
def ownerByte : Option Port → Byte
  | none => 0
  | some .A => 1
  | some .B => 2

def SessState.byte : SessState → Byte
  | .closed => 0
  | .opened _ _ => 1
  | .lapsed _ _ _ => 2

/-- Lapse reason: none 0, SILENCE 1, RETRY 2 (R175). -/
def LapseReason.byte : LapseReason → Byte
  | .silence => 1
  | .retry => 2

/-- The lapse reason of a session state, none outside LAPSED (R148). -/
def SessState.reasonByte : SessState → Byte
  | .closed => 0
  | .opened _ _ => 0
  | .lapsed _ why _ => why.byte

/-- The tag of a session; 0 when CLOSED (R148, R177). -/
def SessState.tagNat : SessState → Nat
  | .closed => 0
  | .opened prm _ => prm.tag.toNat
  | .lapsed prm _ _ => prm.tag.toNat

/-- DISABLED 0, INIT 1, STABLE 2, PENDING 3, CHATTER 4 (R175). -/
def LineState.code : LineState → Nat
  | .disabled _ => 0
  | .init _ => 1
  | .stable _ => 2
  | .pending _ _ _ => 3
  | .chatter _ _ => 4

def OutState.byte : OutState → Byte
  | .free => 0
  | .owned _ => 1
  | .grace _ _ => 2
  | .safeHeld _ => 3

def VerifyState.byte : VerifyState → Byte
  | .off => 0
  | .waiting _ => 1
  | .deferred => 2
  | .ok => 3
  | .unverified => 4

def ResetCause.byte : ResetCause → Byte
  | .powerOn => 0
  | .pin => 1
  | .restart => 2
  | .supplyDip => 3

/-! ### Reading arguments (R175, R176) -/

/-- The one-byte field at offset i. -/
def arg8 (payload : List Byte) (i : Nat) : Nat := (payload.getD i 0).toNat

/-- The little-endian field of k bytes at offset i. -/
def argLe (payload : List Byte) (i k : Nat) : Nat := leNat ((payload.drop i).take k)

/-- The things that a mask of k bytes at offset i names, in ascending order. -/
def argMask (n : Nat) (payload : List Byte) (i k : Nat) : List (Fin n) :=
  (List.finRange n).filter fun j => (argLe payload i k).testBit j.val

/-- A flag: 0 or 1, anything else is outside its encoding (R175). -/
def argFlag (payload : List Byte) (i : Nat) : Option Bool :=
  if arg8 payload i = 0 then some false else if arg8 payload i = 1 then some true else none

/-- A set or output number, 0 to 15 (R34, R136). -/
def arg16th (payload : List Byte) (i : Nat) : Option (Fin 16) :=
  if h : arg8 payload i < 16 then some ⟨arg8 payload i, h⟩ else none

/-- Counted edge: NONE 0, RISING 1, FALLING 2, BOTH 3 (R175). -/
def argCounted (payload : List Byte) (i : Nat) : Option CountedEdge :=
  match arg8 payload i with
  | 0 => some .none
  | 1 => some .rising
  | 2 => some .falling
  | 3 => some .both
  | _ => none

/-- Set mode: EACH 0, LATEST 1, SUMMARY 2 (R175). -/
def argMode (payload : List Byte) (i : Nat) : Option SetMode :=
  match arg8 payload i with
  | 0 => some .each
  | 1 => some .latest
  | 2 => some .summary
  | _ => none

/-! ### Kinds and statuses (R171, R174, R176) -/

/-- The request kinds (R176). -/
inductive ReqKind where
  | hello | openSession | close | ping | setTime
  | configLine | readLineConfig | readLines | readCounters
  | defineSet | armSet | disarmSet | deleteSet | readSet | ackSet | resyncSet | adoptSet
  | ack | journalStatus | claimOutput | releaseOutput | configOutput | writeOutputs | readOutputs | restart
  deriving DecidableEq, Repr

/-- The kind code of a request (10, 10.4). -/
def ReqKind.code : ReqKind → Byte
  | .hello => 0x01
  | .openSession => 0x02
  | .close => 0x03
  | .ping => 0x04
  | .setTime => 0x05
  | .configLine => 0x08
  | .readLineConfig => 0x09
  | .readLines => 0x0A
  | .readCounters => 0x0B
  | .defineSet => 0x10
  | .armSet => 0x11
  | .disarmSet => 0x12
  | .deleteSet => 0x13
  | .readSet => 0x14
  | .ackSet => 0x15
  | .resyncSet => 0x16
  | .adoptSet => 0x17
  | .ack => 0x18
  | .journalStatus => 0x19
  | .claimOutput => 0x1A
  | .releaseOutput => 0x1B
  | .configOutput => 0x1C
  | .writeOutputs => 0x1D
  | .readOutputs => 0x1E
  | .restart => 0x1F

/-- The one valid payload length of a request kind (R176). -/
def ReqKind.length : ReqKind → Nat
  | .hello => 0
  | .openSession => 11
  | .close => 0
  | .ping => 0
  | .setTime => 4
  | .configLine => 15
  | .readLineConfig => 2
  | .readLines => 0
  | .readCounters => 3
  | .defineSet => 10
  | .armSet => 1
  | .disarmSet => 1
  | .deleteSet => 1
  | .readSet => 1
  | .ackSet => 1
  | .resyncSet => 1
  | .adoptSet => 1
  | .ack => 2
  | .journalStatus => 1
  | .claimOutput => 3
  | .releaseOutput => 2
  | .configOutput => 6
  | .writeOutputs => 4
  | .readOutputs => 2
  | .restart => 1

/-- HELLO and OPEN are exempt from the session check (R173). -/
def ReqKind.needsSession : ReqKind → Bool
  | .hello => false
  | .openSession => false
  | .close | .ping | .setTime | .configLine | .readLineConfig | .readLines | .readCounters | .defineSet | .armSet
  | .disarmSet | .deleteSet | .readSet | .ackSet | .resyncSet | .adoptSet | .ack | .journalStatus | .claimOutput
  | .releaseOutput | .configOutput | .writeOutputs | .readOutputs | .restart => true

/-- The codes that are request kinds: 0x01 to 0x05, 0x08 to 0x0B and 0x10 to 0x1F (R176). -/
def isRequestKind (k : Byte) : Bool :=
  (0x01 ≤ k.toNat && k.toNat ≤ 0x05) || (0x08 ≤ k.toNat && k.toNat ≤ 0x0B) || (0x10 ≤ k.toNat && k.toNat ≤ 0x1F)

/-- The status codes of a response (R174). -/
inductive Status where
  | ok | badRequest | noSession | badArg | notOwner | wrongState | inUse | conflict | noRoom | badAck | sessionActive
  deriving DecidableEq, Repr

def Status.byte : Status → Byte
  | .ok => 0
  | .badRequest => 1
  | .noSession => 2
  | .badArg => 3
  | .notOwner => 4
  | .wrongState => 5
  | .inUse => 6
  | .conflict => 7
  | .noRoom => 8
  | .badAck => 9
  | .sessionActive => 10

/-- The KIND of the response to a request kind (R173). -/
def responseKind (k : Byte) : Byte := k + 0x80

/-- The KIND of a reject response (R171). -/
def rejectKind : Byte := 0xFF

/-- The KIND of a notice (R179). -/
def noticeKind : Byte := 0x60

/-! ### The frame check (R159) -/

/-- One bit of the CRC-16 with polynomial 0x1021, most significant bit first. -/
def crcShift (c : BitVec 16) : BitVec 16 := if c.msb then (c <<< 1) ^^^ 0x1021 else c <<< 1

/-- One byte of the frame check. -/
def crcByte (c : BitVec 16) (b : Byte) : BitVec 16 :=
  let c := c ^^^ (b.zeroExtend 16 <<< 8)
  crcShift (crcShift (crcShift (crcShift (crcShift (crcShift (crcShift (crcShift c)))))))

/-- The frame check over the bytes from LEN through the last payload byte, from 0xFFFF. -/
def crc16 (bytes : List Byte) : BitVec 16 := bytes.foldl crcByte 0xFFFF

/-- KIND, TAG and PAYLOAD in order. -/
def Frame.content (f : Frame) : List Byte := f.kind :: f.tag :: f.payload

/-- LEN: the number of bytes in KIND, TAG and PAYLOAD together. -/
def Frame.len (f : Frame) : Byte := byteOf f.content.length

/-- The bytes of a frame on the line: SYNC, LEN, KIND, TAG, PAYLOAD and the check, low byte first (R159, R168). -/
def Frame.wire (f : Frame) : List Byte :=
  Config.sync :: f.len :: (f.content ++ leBytes 2 (crc16 (f.len :: f.content)).toNat)

/-- The frame that the stored bytes of a valid reception hold: KIND, TAG, and the rest as payload (R161). -/
def Frame.ofContent (got : List Byte) : Frame := { kind := got.getD 0 0, tag := got.getD 1 0, payload := got.drop 2 }

/-! ### Records on the wire (R180) -/

/-- The KIND code of a record. -/
def RecBody.code : RecBody → Byte
  | .change _ _ _ _ => 1
  | .chatterStart _ _ _ => 2
  | .chatterEnd _ _ _ => 3
  | .resyncMark _ _ => 4
  | .outputFault _ _ _ => 5
  | .timeMark _ _ => 6
  | .void _ => 7

/-- PRESENT: bit 0 for a CHANGE record with its optional parts, 0 otherwise. -/
def RecBody.present : RecBody → Byte
  | .change _ _ _ (some _) => 1
  | .change _ _ _ none => 0
  | .chatterStart _ _ _ => 0
  | .chatterEnd _ _ _ => 0
  | .resyncMark _ _ => 0
  | .outputFault _ _ _ => 0
  | .timeMark _ _ => 0
  | .void _ => 0

/-- The fields after the common part. -/
def RecBody.fieldBytes : RecBody → List Byte
  | .change w l level none => [byteOf w.val, byteOf l.val, flagByte level]
  | .change w l level (some (n, last)) => [byteOf w.val, byteOf l.val, flagByte level, byteOf n] ++ leBytes 4 last.toNat
  | .chatterStart w l level => [byteOf w.val, byteOf l.val, flagByte level]
  | .chatterEnd w l level => [byteOf w.val, byteOf l.val, flagByte level]
  | .resyncMark w levels => [byteOf w.val, byteOf levels.length] ++ levelListBytes levels
  | .outputFault o driven readback => [byteOf o.val, flagByte driven, flagByte readback]
  | .timeMark old _ => leBytes 4 old.toNat
  | .void w => [byteOf w.val]

/-- A record as a notice carries it: KIND, PRESENT, STAMP, and the fields of its kind. -/
def Rec.bytes (r : Rec) : List Byte := [r.body.code, r.body.present] ++ leBytes 4 r.stamp.toNat ++ r.body.fieldBytes

end Sys2Proof.Machine
end

