-- ==== Sys2Proof/Machine/Ops.lean ====
section
/-! DEFINITION. The operations that the commands share: free orders, admission and removal of records, the driven level and
its verification, the taking of a request with its response, sessions opening, lapsing and being torn down, and reset. -/

namespace Sys2Proof.Machine

open Sys2Proof

/-- The command takes place unless a reset is asserted: then the part takes no samples and neither receives nor sends (R150,
R170), and nothing of it changes (log 9). -/
def whenRunning (s : State) (f : State → State) : Host.Outcome State Fault Refusal :=
  .next (if s.inReset then s else f s)

/-! ### Orders the spec leaves open (logs 4, 6, 7) -/

/-- The list in a free order: one part after another is chosen by the free value. -/
def arrangeFrom (use : Nat) : Nat → List α → List α
  | 0, xs => xs
  | _ + 1, [] => []
  | _ + 1, [x] => [x]
  | n + 1, x :: y :: zs =>
    let i := Config.freeIndex use n % (zs.length + 2)
    ((x :: y :: zs)[i]?.toList) ++ arrangeFrom use n ((x :: y :: zs).eraseIdx i)

/-- The parts of one moment in an order the spec leaves open. -/
def arrange (use : Nat) (xs : List α) : List α := arrangeFrom use xs.length xs

/-! ### Journals and the pool (chapter 3) -/

/-- Session p can take one more record: it holds fewer than its reserve, or fewer than its cap with a shared slot free
(R48). -/
def State.canAdmit (s : State) (p : Port) : Bool :=
  decide ((s.journals.at p).holding < Config.reserveSlots) ||
    (decide ((s.journals.at p).holding < Config.sessionCap) && decide (0 < s.sharedFree))

/-- The record joins the end of the journal as UNSENT (R58). -/
def State.append (s : State) (p : Port) (r : Rec) : State :=
  s.putJournal p { s.journals.at p with unsent := (s.journals.at p).unsent ++ [r] }

/-- Admission: the record joins the journal, or there is no room for it (R48). -/
def State.tryAdmit (s : State) (p : Port) (r : Rec) : Option State := if s.canAdmit p then some (s.append p r) else none

/-- The admission of an OUTPUT_FAULT or TIME_MARK record, which is lost with the loss flag when it fails (R61). -/
def State.admitOrLose (s : State) (p : Port) (r : Rec) : State := (s.tryAdmit p r).getD (s.noteLoss p)

/-- Every UNSENT record of a set leaves the journal (R66). -/
def Journal.dropUnsentOf (w : SetId) (j : Journal) : Journal := { j with unsent := j.unsent.filter fun r => !r.ofSet w }

/-- A record converted to VOID keeps its set and its stamp (R57). -/
def Rec.toVoid (w : SetId) (r : Rec) : Rec := { r with body := .void w }

/-- Every INFLIGHT record of a set becomes VOID, keeping its number and its place (R57, R66). -/
def Journal.voidInflightOf (w : SetId) (j : Journal) : Journal :=
  { j with inflight := j.inflight.map fun x => if x.entry.ofSet w then { x with entry := x.entry.toVoid w } else x }

/-- The number of records of a set in a journal, VOID records included (R40). -/
def Journal.heldOf (w : SetId) (j : Journal) : Nat := (j.records.filter fun r => r.ofSet w).length

/-! ### Outputs (chapter 7) -/

/-- Verification restarts: WAITING with the timer to start at the next sample, or OFF with verify enable off (R138). -/
def Output.restartVerify (o : Output) : Output := { o with verify := if o.verifyEnable then .waiting none else .off }

/-- The record o becomes o', and verification restarts if the driven level changed its value (R128, R138). -/
def Output.become (o o' : Output) : Output := if o'.driven = o.driven then o' else o'.restartVerify

/-- The output becomes FREE: fault latched 0, the safe level driven (R131, R134). -/
def Output.release (o : Output) : Output := o.become { o with state := .free, fault := false }

/-- The owner's lapse: OWNED becomes GRACE with its timer running, or SAFE_HELD where the grace is 0 (R130). -/
def Output.lapse (p : Port) (now : Nat) (o : Output) : Output :=
  if o.state = .owned p then
    o.become { o with state := if o.grace = 0 then .safeHeld p else .grace p (now + Config.samplesPerMs * o.grace) }
  else o

/-- The owner's resume: GRACE becomes OWNED; everything else stays (R131). -/
def Output.resume (p : Port) (o : Output) : Output :=
  match o.state with
  | .free => o
  | .owned _ => o
  | .grace q _ => if q = p then o.become { o with state := .owned p } else o
  | .safeHeld _ => o

/-! ### Sessions (chapter 5) -/

/-- Everything that session p owns is released, and the session is CLOSED with its fields at their reset values (R107,
R72). -/
def State.teardown (s : State) (p : Port) : State :=
  let freed := s.updateSets fun _ ws => ws.filter fun x => decide (x.owner ≠ p)
  let dropped := freed.updateOutputs fun _ o => if o.state.owner = some p then o.release else o
  let emptied := (dropped.putJournal p Journal.empty).putSession p Session.reset
  emptied.putEngine p { s.engines.at p with retransmit := none, goBack := none }

/-- The silence timer's expiry when it starts now: three times the keepalive (R103). -/
def State.silenceExpiry (s : State) (keepalive : Nat) : Nat := s.after (3 * keepalive)

/-- A fresh open with the parameters given (R98, R72). -/
def State.freshOpen (s : State) (p : Port) (prm : Params) : State :=
  let opened := s.putSession p
    { state := .opened prm (s.silenceExpiry prm.keepalive), loss := false, lostSets := [], lostOutputs := [] }
  (opened.putJournal p Journal.empty).putEngine p Engine.reset

/-- A resume of a LAPSED session with its old parameters and those of the request: the tag and the window are kept (R99,
R73). -/
def State.resume (s : State) (p : Port) (old new : Params) : State :=
  let prm := { new with tag := old.tag, window := old.window }
  let reopened := s.putSession p
    { s.sessions.at p with state := .opened prm (s.silenceExpiry prm.keepalive), lostSets := [], lostOutputs := [] }
  let marked := reopened.putEngine p
    { s.engines.at p with retryCount := 0, goBack := (s.journals.at p).inflight.head?.map Sent.seq }
  marked.updateOutputs fun _ o => o.resume p

/-- A lapse of an OPEN session, by either reason: LAPSED with the retain timer running, or, with retain 0, torn down at once.
A session that is not OPEN does not lapse (R105, R106, R104, R73). -/
def State.lapse (s : State) (p : Port) (why : LapseReason) : State :=
  match (s.sessions.at p).state with
  | .closed => s
  | .lapsed _ _ _ => s
  | .opened prm _ =>
    if prm.retain = 0 then s.teardown p
    else
      let lapsed := s.putSession p { s.sessions.at p with state := .lapsed prm why (s.after (1000 * prm.retain)) }
      let stopped := lapsed.putEngine p { s.engines.at p with retransmit := none }
      stopped.updateOutputs fun _ o => o.lapse p s.now

/-- A valid frame restarts the silence timer of an OPEN session (R103, R164). -/
def State.restartSilence (s : State) (p : Port) : State :=
  match (s.sessions.at p).state with
  | .closed => s
  | .lapsed _ _ _ => s
  | .opened prm _ =>
    s.putSession p { s.sessions.at p with state := .opened prm (s.silenceExpiry prm.keepalive) }

/-! ### The taking of a request (chapters 9 and 10) -/

/-- What a request's own rule answers: the state after it, the status, and the results of an accepted request. -/
structure Answer where
  state : State
  status : Status
  results : List Byte

/-- A refusal: nothing changes and there are no results (R173). -/
def refuse (s : State) (status : Status) : Answer := { state := s, status := status, results := [] }

/-- An acceptance with its results. -/
def accept (s : State) (results : List Byte) : Answer := { state := s, status := .ok, results := results }

/-- The frame that the request handler of a port would take: the oldest of the request queue, unless the response queue is
full, a RESTART is pending on the port, or a reset is asserted (R165, R153, R170). -/
def State.nextRequest (s : State) (p : Port) : Option Frame :=
  let port := s.ports.at p
  if s.inReset || port.restartPending || decide (Config.queueDepth ≤ port.responses.length) then none
  else port.requests.head?

/-- The oldest frame leaves the request queue (R165). -/
def State.popRequest (s : State) (p : Port) : State :=
  s.putPort p { s.ports.at p with requests := (s.ports.at p).requests.tail }

/-- The payload of a response: STATUS, LINK and DISCARDED, then the results (R174). -/
def responsePayload (port : LinkPort) (status : Status) (results : List Byte) : List Byte :=
  status.byte :: flagByte port.overrun :: byteOf port.discarded :: results

/-- One response joins the end of the response queue; it takes the port's overrun flag and discarded count, which are then
cleared (R165, R167). -/
def State.respond (s : State) (p : Port) (kind tag : Byte) (status : Status) (results : List Byte) : State :=
  let port := s.ports.at p
  s.putPort p
    { port with
      responses := port.responses ++ [{ kind := kind, tag := tag, payload := responsePayload port status results }]
      overrun := false
      discarded := 0 }

/-- The checks of R173 that come before a request's own: the payload length, then the session. -/
def checkRequest (k : ReqKind) (s : State) (p : Port) (payload : List Byte) : Option Status :=
  if payload.length ≠ k.length then some .badRequest
  else if k.needsSession && !s.isOpen p then some .noSession
  else none

/-- The taking of a request of kind k: the frame leaves the queue, the checks of R173 are made in their order, the request's
own rule is carried out, and one response is placed. The step belongs to a frame of kind k: without one at the front, or
while the handler waits, nothing is taken (log 3). -/
def takeRequest (k : ReqKind) (own : Port → List Byte → State → Answer) (p : Port) (s : State) : State :=
  match s.nextRequest p with
  | none => s
  | some f =>
    if f.kind = k.code then
      let taken := s.popRequest p
      let answer := match checkRequest k taken p f.payload with
        | some status => refuse taken status
        | none => own p f.payload taken
      answer.state.respond p (responseKind k.code) f.tag answer.status answer.results
    else s

/-! ### Reset (chapter 8) -/

/-- Every block at its reset values; the Timebase's reset cause and count, the reset sources, the bit rates, the model's count
of free orders and the waiting commands are no block's reset value (R149, R156, R157). -/
def State.blocksReset (s : State) : State :=
  { State.reset with
    resetCause := s.resetCause
    resetCount := s.resetCount
    resetPeriod := s.resetPeriod
    rstnLow := s.rstnLow
    dipLow := s.dipLow
    powerLow := s.powerLow
    ports := ⟨LinkPort.reset s.ports.a.bitRate, LinkPort.reset s.ports.b.bitRate⟩
    choice := s.choice
    pending := s.pending }

/-- A source asserts reset: a period begins with its cause, or one in progress keeps the cause of the source that began it;
a power-on among the sources makes the period a power-on (R149). The reset happens at once (R155; log 9). -/
def State.assertReset (s : State) (cause : ResetCause) : State :=
  let period := if cause = .powerOn then cause else s.resetPeriod.getD cause
  { s with resetPeriod := some period }.blocksReset

/-- The rate that two strap levels select (R157). -/
def strapRate (x1 x0 : Bool) : BitRate :=
  match x1, x0 with
  | false, false => .r115200
  | false, true => .r230400
  | true, false => .r460800
  | true, true => .r921600

/-- No source asserts reset any longer. -/
def State.released (s : State) : Bool := !s.rstnLow && !s.dipLow && !s.powerLow

/-- The reset period ends if no source still asserts reset: the cause and count are written, the straps are read and every
block takes its reset values (R149, R156, R157). -/
def State.endReset (s : State) (straps : Straps) : State :=
  match s.resetPeriod with
  | none => s
  | some cause =>
    if s.released then
      { s.blocksReset with
        resetPeriod := none
        resetCause := cause
        resetCount := countReset cause s.resetCount
        ports := ⟨LinkPort.reset (strapRate straps.a1 straps.a0), LinkPort.reset (strapRate straps.b1 straps.b0)⟩ }
    else s

end Sys2Proof.Machine
end

