-- ==== Sys2Proof/Machine/Lines.lean ====
section
/-! DEFINITION. The debounce state machine of one line: what a line does with one sample (spec/01, 1.3), and what
CONFIG_LINE does to a line record. -/

namespace Sys2Proof.Machine

open Sys2Proof

/-- The three kinds of debounced events (R15). -/
inductive LineEvent where
  /-- change: the new D and the pending edge stamp -/
  | change (level : Bool) (stamp : Time)
  /-- chatter-start: the frozen D and the time of the debounce expiry -/
  | chatterStart (level : Bool) (stamp : Time)
  /-- chatter-end: the new D, the time of the quiet expiry, and whether the new D differs from the frozen one -/
  | chatterEnd (level : Bool) (stamp : Time) (changed : Bool)
  deriving DecidableEq, Repr

/-- What a line tells its neighbours: a debounced event (R15), or a transition that goes with none (R17). -/
inductive LineNews where
  | event (e : LineEvent)
  /-- the line left INIT with this D -/
  | settled (d : Bool)
  | began
  /-- a pending period ended without a change -/
  | abandoned (d : Bool)
  /-- entry to INIT or DISABLED through CONFIG_LINE -/
  | reconfigured
  deriving DecidableEq, Repr

/-- A running timer has come to its expiry sample. -/
def expired (now : Nat) (timer : Option Nat) : Bool :=
  match timer with
  | none => false
  | some e => decide (e ≤ now)

/-- The sample is a raw edge: the last raw sample is present and differs from it (R3). -/
def LineRec.isEdge (r : LineRec) (x : Bool) : Bool := decide (r.lastRaw = some (!x))

/-- The input level of a sample: the raw sample, inverted when invert is yes (R3). -/
def LineRec.input (r : LineRec) (x : Bool) : Bool := x ^^ r.config.invert

/-- The expiry of the chatter window: the chatter count returns to 0 and the timer stops (R9). -/
def LineRec.expireWindow (now : Nat) (r : LineRec) : LineRec :=
  if expired now r.windowTimer then { r with chatterCount := 0, windowTimer := none } else r

/-- A debounced change away from d is due: the chatter check, then CHATTER (R10) or the applied change (R8, R9). -/
def LineRec.due (now : Nat) (time : Time) (d : Bool) (stamp : Time) (r : LineRec) : LineRec × LineNews :=
  if r.config.chatterLimit ≠ 0 ∧ r.config.chatterLimit < r.chatterCount + 1 then
    ({ r with state := .chatter d (now + Config.samplesPerMs * r.config.chatterWindow), windowTimer := none },
      .event (.chatterStart d time))
  else
    ({ r with
        state := .stable (!d)
        edges := countEdge r.config.counted (!d) r.edges
        chatterCount := if r.config.chatterLimit = 0 then r.chatterCount else r.chatterCount + 1
        windowTimer :=
          if r.config.chatterLimit ≠ 0 ∧ r.chatterCount = 0 then
            some (now + Config.samplesPerMs * r.config.chatterWindow)
          else r.windowTimer },
      .event (.change (!d) stamp))

/-- A sample taken in INIT: the settle timer starts, restarts at a raw edge, or expires (R5). -/
def LineRec.takeInit (now : Nat) (x : Bool) (settle : Option Nat) (r : LineRec) : LineRec × Option LineNews :=
  let start := now + Config.samplesPerMs * r.config.debounce
  if r.config.debounce = 0 then ({ r with state := .stable (r.input x) }, some (.settled (r.input x)))
  else
    match settle with
    | none => ({ r with state := .init (some start) }, none)
    | some e =>
      if r.isEdge x then ({ r with state := .init (some start) }, none)
      else if e ≤ now then ({ r with state := .stable (r.input x) }, some (.settled (r.input x)))
      else (r, none)

/-- A sample taken in STABLE: a departing input begins a pending period, or with debounce 0 is a due change at once (R6). -/
def LineRec.takeStable (now : Nat) (time : Time) (x : Bool) (d : Bool) (r : LineRec) : LineRec × Option LineNews :=
  if r.input x = d then (r, none)
  else if r.config.debounce = 0 then ((r.due now time d time).1, some (r.due now time d time).2)
  else ({ r with state := .pending d time (now + Config.samplesPerMs * r.config.debounce) }, some .began)

/-- A sample taken in PENDING: a return to D abandons the period, the expiry makes the change due (R7, R8). -/
def LineRec.takePending (now : Nat) (time : Time) (x : Bool) (d : Bool) (stamp : Time) (expiry : Nat) (r : LineRec) :
    LineRec × Option LineNews :=
  if r.input x = d then ({ r with state := .stable d }, some (.abandoned d))
  else if expiry ≤ now then ((r.due now time d stamp).1, some (r.due now time d stamp).2)
  else (r, none)

/-- A sample taken in CHATTER: a raw edge restarts the quiet timer, and its expiry ends the chatter (R11, R12). -/
def LineRec.takeChatter (now : Nat) (time : Time) (x : Bool) (d : Bool) (quiet : Nat) (r : LineRec) :
    LineRec × Option LineNews :=
  if r.isEdge x then ({ r with state := .chatter d (now + Config.samplesPerMs * r.config.chatterWindow) }, none)
  else if quiet ≤ now then
    ({ r with
        state := .stable (r.input x)
        chatterCount := 0
        edges := if r.input x = d then r.edges else countEdge r.config.counted (r.input x) r.edges },
      some (.event (.chatterEnd (r.input x) time (decide (r.input x ≠ d)))))
  else (r, none)

/-- A line takes a sample as one event (R3): the chatter window first, then what its state gives, and the sample becomes the
last raw sample. A DISABLED line does only the last (R3, R14). -/
def LineRec.take (now : Nat) (time : Time) (x : Bool) (r : LineRec) : LineRec × Option LineNews :=
  let r1 := r.expireWindow now
  let out := match r1.state with
    | .disabled _ => (r1, none)
    | .init settle => r1.takeInit now x settle
    | .stable d => r1.takeStable now time x d
    | .pending d stamp expiry => r1.takePending now time x d stamp expiry
    | .chatter d quiet => r1.takeChatter now time x d quiet
  ({ out.1 with lastRaw := some x, waiting := none }, out.2)

/-- The sample is an event of its own for the line (RAW_EDGE or an expiry), and not only a new last raw sample and the start
of a settle timer, which SAMPLE does itself. -/
def LineRec.eventful (now : Nat) (x : Bool) (r : LineRec) : Bool :=
  expired now r.windowTimer ||
    match r.state with
    | .disabled _ => false
    | .init settle => r.isEdge x || expired now settle || decide (r.config.debounce = 0)
    | .stable d => decide (r.input x ≠ d)
    | .pending d _ expiry => decide (r.input x = d) || decide (expiry ≤ now)
    | .chatter _ quiet => r.isEdge x || decide (quiet ≤ now)

/-- A sample reaches a line: it waits for the line's own event, or the line takes it at once (log 4). -/
def LineRec.offer (now : Nat) (time : Time) (x : Bool) (r : LineRec) : LineRec :=
  if r.eventful now x then { r with waiting := some x } else (r.take now time x).1

/-- An accepted CONFIG_LINE on a named line: the new configuration, every timer stopped, INIT or DISABLED; the edge counter
and the last raw sample are kept (R19, R5, R14). -/
def LineRec.configure (c : LineConfig) (r : LineRec) : LineRec :=
  { r with
    config := c
    state := if c.enable then .init none else .disabled r.state.level
    chatterCount := 0
    windowTimer := none }

/-- The pending edge stamp of a line in PENDING moves with the time count (R146). -/
def LineRec.shiftStamp (step : Time) (r : LineRec) : LineRec :=
  match r.state with
  | .disabled _ => r
  | .init _ => r
  | .stable _ => r
  | .pending d stamp expiry => { r with state := .pending d (stamp + step) expiry }
  | .chatter _ _ => r

/-- The line is in INIT. -/
def LineState.isInit : LineState → Bool
  | .disabled _ => false
  | .init _ => true
  | .stable _ => false
  | .pending _ _ _ => false
  | .chatter _ _ => false

end Sys2Proof.Machine
end

