-- ==== Sys2Proof/Machine/SessionCommands.lean ====
section
/-! DEFINITION. The requests of sessions and of the Timebase: HELLO, OPEN, CLOSE, PING, SET_TIME and RESTART, and REJECT
(spec/05, spec/08, spec/10 R171). -/

namespace Sys2Proof.Machine

open Sys2Proof

/-- The number of lines in INIT (R148). -/
def State.linesInInit (s : State) : Nat := ((List.finRange 64).filter fun l => (s.lines.at l).state.isInit).length

/-- State, tag and lapse reason of one session as HELLO gives them (R148). -/
def helloSession (st : SessState) : List Byte := st.byte :: (leBytes 2 st.tagNat ++ [st.reasonByte])

/-- The results of HELLO (R148, R177). -/
def helloResults (s : State) : List Byte :=
  leBytes 2 Config.vendorCode ++ leBytes 2 Config.partCode ++ [byteOf Config.revision, 64, 16, 16] ++
    leBytes 2 Config.slots ++ [s.resetCause.byte, byteOf s.resetCount] ++ helloSession (s.sessions.at .A).state ++
    helloSession (s.sessions.at .B).state ++ [byteOf s.linesInInit]

/-- HELLO changes nothing and is answered in every session state (R148). -/
def helloOwn (_p : Port) (_payload : List Byte) (s : State) : Answer := accept s (helloResults s)

/-- HELLO. -/
def execHello (p : Port) (s : State) : Host.Outcome State Fault Refusal := .next (takeRequest .hello helloOwn p s)

/-- The parameters that OPEN carries, when every argument is in its range (R96, R176). -/
def openParams (payload : List Byte) : Option Params :=
  let tag := argLe payload 0 2
  let keepalive := argLe payload 2 2
  let window := arg8 payload 4
  let timeout := argLe payload 5 2
  let limit := arg8 payload 7
  let retain := argLe payload 8 2
  if 1 ≤ tag ∧ 100 ≤ keepalive ∧ keepalive ≤ 60000 ∧ 1 ≤ window ∧ window ≤ 32 ∧ 20 ≤ timeout ∧ timeout ≤ 5000 ∧
      1 ≤ limit ∧ limit ≤ 15 ∧ retain ≤ 600 then
    some { tag := BitVec.ofNat 16 tag, keepalive := keepalive, retain := retain, window := window,
           retryTimeout := timeout, retryLimit := limit }
  else none

/-- The results of an accepted OPEN: resumed, lapse reason, window, oldest INFLIGHT, next sequence, lost sets, lost outputs
(R100, R177). -/
def openResults (resumed : Bool) (reason : Byte) (window : Nat) (oldest next : Seq) (lostSets : List SetId)
    (lostOutputs : List OutId) : List Byte :=
  [flagByte resumed, reason, byteOf window] ++ leBytes 2 oldest.toNat ++ leBytes 2 next.toNat ++
    maskBytes 2 16 (fun w => decide (w ∈ lostSets)) ++ maskBytes 2 16 (fun o => decide (o ∈ lostOutputs))

/-- A fresh open and its results (R98, R100). -/
def openFresh (p : Port) (prm : Params) (s : State) : Answer :=
  accept (s.freshOpen p prm) (openResults false 0 prm.window 0 1 [] [])

/-- A resume and its results: the lapse reason and the lost lists as they stood before it (R99, R100). -/
def openResume (p : Port) (old new : Params) (why : LapseReason) (s : State) : Answer :=
  accept (s.resume p old new)
    (openResults true why.byte old.window (s.oldestInflight p) (s.engines.at p).nextSeq (s.sessions.at p).lostSets
      (s.sessions.at p).lostOutputs)

/-- OPEN: the argument checks, then one of five outcomes by the session found, replace and the tag (R96, R97). -/
def openOwn (p : Port) (payload : List Byte) (s : State) : Answer :=
  match openParams payload, argFlag payload 10 with
  | some prm, some replace =>
    match (s.sessions.at p).state with
    | .closed => openFresh p prm s
    | .opened _ _ => if replace then openFresh p prm (s.teardown p) else refuse s .sessionActive
    | .lapsed old why _ => if prm.tag = old.tag then openResume p old prm why s else openFresh p prm (s.teardown p)
  | none, _ => refuse s .badArg
  | _, none => refuse s .badArg

/-- OPEN. -/
def execOpenSession (p : Port) (s : State) : Host.Outcome State Fault Refusal :=
  .next (takeRequest .openSession openOwn p s)

/-- CLOSE tears the requesting session down (R101). -/
def closeOwn (p : Port) (_payload : List Byte) (s : State) : Answer := accept (s.teardown p) []

/-- CLOSE. -/
def execClose (p : Port) (s : State) : Host.Outcome State Fault Refusal := .next (takeRequest .close closeOwn p s)

/-- The stale mask and the attention mask of a session on the wire (R175). -/
def State.maskFields (s : State) (p : Port) : List Byte :=
  maskBytes 2 16 (s.staleMask p) ++ maskBytes 2 16 (s.attentionMask p)

/-- The results of PING (R102, R177). -/
def pingResults (p : Port) (s : State) : List Byte :=
  leBytes 4 s.time.toNat ++ [(s.sessions.at p).state.byte, (s.sessions.at p.other).state.byte] ++ s.maskFields p ++
    [byteOf (s.journals.at p).unsent.length, byteOf (s.journals.at p).inflight.length, flagByte (s.sessions.at p).loss]

/-- PING changes nothing (R102). -/
def pingOwn (p : Port) (_payload : List Byte) (s : State) : Answer := accept s (pingResults p s)

/-- PING. -/
def execPing (p : Port) (s : State) : Host.Outcome State Fault Refusal := .next (takeRequest .ping pingOwn p s)

/-- A TIME_MARK is asked for in the journal of a session that is OPEN or LAPSED (R56, R146). -/
def State.markTime (old new : Time) (s : State) (p : Port) : State :=
  match (s.sessions.at p).state with
  | .closed => s
  | .opened _ _ => s.admitOrLose p { stamp := new, body := .timeMark old new }
  | .lapsed _ _ _ => s.admitOrLose p { stamp := new, body := .timeMark old new }

/-- SET_TIME's effect: the count, the pending edge stamps, and a TIME_MARK in each live journal, the two in an order the spec
leaves open (R146; log 7). -/
def State.setTime (s : State) (new : Time) : State :=
  let moved := ({ s with time := new, choice := s.choice + 1 } : State).updateLines fun _ r => r.shiftStamp (new - s.time)
  (arrange s.choice [Port.A, Port.B]).foldl (State.markTime s.time new) moved

/-- SET_TIME: every 32-bit value is a valid time; the result is the old time (R146). -/
def setTimeOwn (_p : Port) (payload : List Byte) (s : State) : Answer :=
  accept (s.setTime (BitVec.ofNat 32 (argLe payload 0 4))) (leBytes 4 s.time.toNat)

/-- SET_TIME. -/
def execSetTime (p : Port) (s : State) : Host.Outcome State Fault Refusal := .next (takeRequest .setTime setTimeOwn p s)

/-- RESTART: refused while the other session is OPEN unless forced; accepted, it becomes pending on the port (R152). -/
def restartOwn (p : Port) (payload : List Byte) (s : State) : Answer :=
  match argFlag payload 0 with
  | none => refuse s .badArg
  | some force =>
    if s.isOpen p.other && !force then refuse s .wrongState
    else accept (s.putPort p { s.ports.at p with restartPending := true }) []

/-- RESTART. -/
def execRestart (p : Port) (s : State) : Host.Outcome State Fault Refusal := .next (takeRequest .restart restartOwn p s)

/-- The taking of a frame whose KIND is no request kind: it is answered with a reject and changes nothing else (R171). -/
def State.takeReject (s : State) (p : Port) : State :=
  match s.nextRequest p with
  | none => s
  | some f => if isRequestKind f.kind then s else (s.popRequest p).respond p rejectKind f.tag .badRequest []

/-- REJECT. -/
def execReject (p : Port) (s : State) : Host.Outcome State Fault Refusal := .next (s.takeReject p)

end Sys2Proof.Machine
end

