-- ==== Sys2Proof/Machine/JournalCommands.lean ====
section
/-! DEFINITION. ACK and JOURNAL_STATUS: acknowledgement with its folds, and the report of the journal and the pool (spec/04,
4.5; spec/03, 3.6). -/

namespace Sys2Proof.Machine

open Sys2Proof

/-- The snapshot with the level of one member replaced (R88). -/
def foldLevel (members : List LineId) (l : LineId) (level : Bool) (snap : List Bool) : List Bool :=
  (members.zip snap).map fun m => if m.1 = l then level else m.2

/-- What an acknowledged record does to the snapshot of its set (R88, R33). -/
def RecBody.fold (members : List LineId) (snap : Option (List Bool)) : RecBody → Option (List Bool)
  | .change _ l level _ => snap.map (foldLevel members l level)
  | .chatterEnd _ l level => snap.map (foldLevel members l level)
  | .resyncMark _ levels => some levels
  | .chatterStart _ _ _ => snap
  | .outputFault _ _ _ => snap
  | .timeMark _ _ => snap
  | .void _ => snap

/-- An acknowledged record folds into its set, when the set is ARMED or STALE and owned by the acknowledging session (R88). -/
def State.foldRecord (p : Port) (s : State) (r : Rec) : State :=
  match r.body.set? with
  | none => s
  | some w =>
    match s.sets.at w with
    | none => s
    | some ws =>
      if ws.owner = p ∧ ws.inUse then
        s.putSet w (some { ws with snapshot := r.body.fold ws.members ws.snapshot })
      else s

/-- The distance of N behind L, the last sequence number sent (R86). -/
def State.ackDistance (s : State) (p : Port) (n : Seq) : Nat := ((s.engines.at p).nextSeq - 1 - n).toNat

/-- The go-back mark after an ACK that removed the given records and left the others INFLIGHT (R84). -/
def goBackAfterAck (removed left : List Sent) (mark : Option Seq) : Option Seq :=
  match mark with
  | none => none
  | some r => if r ∈ removed.map Sent.seq then left.head?.map Sent.seq else if left.isEmpty then none else some r

/-- The engine after an ACK that removed at least one record (R89). -/
def Engine.acked (e : Engine) (restart : Nat) (removed left : List Sent) : Engine :=
  { e with
    retryCount := 0
    retransmit := if left.isEmpty then none else some restart
    goBack := goBackAfterAck removed left e.goBack }

/-- The expiry of the retransmit timer of session p when it starts now: the session's retry timeout (R82). -/
def State.retransmitExpiry (s : State) (p : Port) : Nat :=
  match (s.sessions.at p).state with
  | .closed => s.now
  | .opened prm _ => s.after prm.retryTimeout
  | .lapsed prm _ _ => s.after prm.retryTimeout

/-- An accepted ACK of the INFLIGHT records that lie at least d behind L: each is folded and removed, in sequence order, and
the engine follows (R87, R88, R89). -/
def State.acknowledge (s : State) (p : Port) (d : Nat) : State :=
  let j := s.journals.at p
  let removed := j.inflight.take (j.inflight.length - d)
  let left := j.inflight.drop (j.inflight.length - d)
  if removed.isEmpty then s
  else
    let folded := (removed.map Sent.entry).foldl (State.foldRecord p) s
    (folded.putJournal p { j with inflight := left }).putEngine p
      ((s.engines.at p).acked (s.retransmitExpiry p) removed left)

/-- ACK: refused when N lies more than 255 behind L, or ahead of it; the results are the number acknowledged and the oldest
INFLIGHT that remains (R86, R89). -/
def ackOwn (p : Port) (payload : List Byte) (s : State) : Answer :=
  let d := s.ackDistance p (BitVec.ofNat 16 (argLe payload 0 2))
  if 255 < d then refuse s .badAck
  else
    let after := s.acknowledge p d
    accept after (byteOf ((s.journals.at p).inflight.length - d) :: leBytes 2 (after.oldestInflight p).toNat)

/-- ACK. -/
def execAck (p : Port) (s : State) : Host.Outcome State Fault Refusal := .next (takeRequest .ack ackOwn p s)

/-- The results of JOURNAL_STATUS (R69, R177). -/
def journalStatusResults (p : Port) (s : State) : List Byte :=
  let j := s.journals.at p
  [byteOf j.unsent.length, byteOf j.inflight.length] ++ leBytes 2 (s.oldestInflight p).toNat ++
    leBytes 2 (s.engines.at p).nextSeq.toNat ++
    [byteOf j.holding, byteOf s.sharedFree, flagByte (s.sessions.at p).loss] ++ s.maskFields p

/-- JOURNAL_STATUS: with clear-loss set the loss flag becomes clear after it is reported (R69). -/
def journalStatusOwn (p : Port) (payload : List Byte) (s : State) : Answer :=
  match argFlag payload 0 with
  | none => refuse s .badArg
  | some clear =>
    accept (if clear then s.putSession p { s.sessions.at p with loss := false } else s) (journalStatusResults p s)

/-- JOURNAL_STATUS. -/
def execJournalStatus (p : Port) (s : State) : Host.Outcome State Fault Refusal :=
  .next (takeRequest .journalStatus journalStatusOwn p s)

end Sys2Proof.Machine
end

