-- ==== Sys2Proof/Machine/Verify.lean ====
section
/-! DEFINITION. Drive verification: faults, verdicts, and what an output does with the news of its readback line (spec/07,
7.4). -/

namespace Sys2Proof.Machine

open Sys2Proof

/-- A fault: fault latched becomes 1 and the verify state UNVERIFIED; on the passage from 0 to 1 with an owner, an
OUTPUT_FAULT record is asked for in the owner's journal (R143). -/
def State.faultOutput (s : State) (o : OutId) (readback : Bool) : State :=
  let out := s.outputs.at o
  let latched := s.putOutput o { out with fault := true, verify := .unverified }
  if out.fault then latched
  else
    match out.state.owner with
    | none => latched
    | some p => latched.admitOrLose p { stamp := s.time, body := .outputFault o out.driven readback }

/-- The verdict on a readback level: OK where it agrees with the driven level, a fault where it differs (R139, R140, R141). -/
def State.judgeOutput (s : State) (o : OutId) (d : Bool) : State :=
  if d = (s.outputs.at o).driven then s.putOutput o { s.outputs.at o with verify := .ok } else s.faultOutput o d

/-- The verify state becomes UNVERIFIED without a fault. -/
def State.unverifyOutput (s : State) (o : OutId) : State := s.putOutput o { s.outputs.at o with verify := .unverified }

/-- In WAITING only a reconfiguration of the readback line acts (R142). -/
def State.hearWaiting (s : State) (o : OutId) : LineNews → State
  | .event _ => s
  | .settled _ => s
  | .began => s
  | .abandoned _ => s
  | .reconfigured => s.unverifyOutput o

/-- In DEFERRED the output is decided when its readback line leaves PENDING (R140). -/
def State.hearDeferred (s : State) (o : OutId) : LineNews → State
  | .event (.change d _) => s.judgeOutput o d
  | .event (.chatterStart _ _) => s.unverifyOutput o
  | .event (.chatterEnd _ _ _) => s
  | .settled _ => s
  | .began => s
  | .abandoned d => s.judgeOutput o d
  | .reconfigured => s.unverifyOutput o

/-- In OK a change is judged, and chatter or a reconfiguration leaves the output unverified (R141, R142). -/
def State.hearOk (s : State) (o : OutId) : LineNews → State
  | .event (.change d _) => s.judgeOutput o d
  | .event (.chatterStart _ _) => s.unverifyOutput o
  | .event (.chatterEnd _ _ _) => s
  | .settled _ => s
  | .began => s
  | .abandoned _ => s
  | .reconfigured => s.unverifyOutput o

/-- In UNVERIFIED a change, a chatter-end and the leaving of INIT are judged (R141). -/
def State.hearUnverified (s : State) (o : OutId) : LineNews → State
  | .event (.change d _) => s.judgeOutput o d
  | .event (.chatterStart _ _) => s
  | .event (.chatterEnd d _ _) => s.judgeOutput o d
  | .settled d => s.judgeOutput o d
  | .began => s
  | .abandoned _ => s
  | .reconfigured => s

/-- The Output Controller hears of an output's readback line (R17, R140 to R142). -/
def State.hearOutput (s : State) (o : OutId) (news : LineNews) : State :=
  match (s.outputs.at o).verify with
  | .off => s
  | .waiting _ => s.hearWaiting o news
  | .deferred => s.hearDeferred o news
  | .ok => s.hearOk o news
  | .unverified => s.hearUnverified o news

/-- The verify timer of an output has come to its expiry sample (R138). -/
def Output.verifyDue (now : Nat) (o : Output) : Bool :=
  match o.verify with
  | .off => false
  | .waiting expiry => expired now expiry
  | .deferred => false
  | .ok => false
  | .unverified => false

/-- The expiry of the verify timer: the readback line is examined as it stands (R139). -/
def State.verifyOutput (s : State) (o : OutId) : State :=
  if (s.outputs.at o).verifyDue s.now then
    match (s.lines.at o.readback).state with
    | .stable d => s.judgeOutput o d
    | .pending _ _ _ => s.putOutput o { s.outputs.at o with verify := .deferred }
    | .init _ => s.unverifyOutput o
    | .chatter _ _ => s.unverifyOutput o
    | .disabled _ => s.unverifyOutput o
  else s

/-- The first sample after a change of driven level starts the verify timer (R138). -/
def Output.startVerify (now : Nat) (o : Output) : Output :=
  match o.verify with
  | .off => o
  | .waiting none => { o with verify := .waiting (some (now + Config.samplesPerMs * o.verifyTime)) }
  | .waiting (some _) => o
  | .deferred => o
  | .ok => o
  | .unverified => o

/-- The grace timer of an output has expired (R130). -/
def Output.graceDue (now : Nat) (o : Output) : Bool :=
  match o.state with
  | .free => false
  | .owned _ => false
  | .grace _ expiry => decide (expiry ≤ now)
  | .safeHeld _ => false

/-- The expiry of the grace timer: SAFE_HELD with the same owner, driving the safe level (R130). -/
def Output.endGrace (now : Nat) (o : Output) : Output :=
  match o.state with
  | .free => o
  | .owned _ => o
  | .grace p expiry => if expiry ≤ now then o.become { o with state := .safeHeld p } else o
  | .safeHeld _ => o

end Sys2Proof.Machine
end

