-- ==== Sys2Proof/Machine/Watch.lean ====
section
/-! DEFINITION. How a watch set takes a line event (spec/02, 2.2): records in EACH and LATEST mode, attention in SUMMARY mode,
and STALE where an admission fails. -/

namespace Sys2Proof.Machine

open Sys2Proof

/-- D of the line before an event, from the event's level (R15). -/
def LineEvent.before : LineEvent → Bool
  | .change level _ => !level
  | .chatterStart level _ => level
  | .chatterEnd level _ changed => level ^^ changed

/-- The record that a record-mode set asks for at an event of a member (R27, R30). -/
def LineEvent.record (w : SetId) (l : LineId) : LineEvent → Rec
  | .change level stamp => { stamp := stamp, body := .change w l level none }
  | .chatterStart level stamp => { stamp := stamp, body := .chatterStart w l level }
  | .chatterEnd level stamp _ => { stamp := stamp, body := .chatterEnd w l level }

/-- The set follows this line: it is ARMED and the line is a member (R26). -/
def WatchSet.follows (ws : WatchSet) (l : LineId) : Bool := decide (ws.phase = .armed) && decide (l ∈ ws.members)

/-- The record is a CHANGE record of this set for this line (R28). -/
def Rec.isChangeOf (w : SetId) (l : LineId) (r : Rec) : Bool :=
  match r.body with
  | .change w' l' _ _ => decide (w' = w) && decide (l' = l)
  | .chatterStart _ _ _ => false
  | .chatterEnd _ _ _ => false
  | .resyncMark _ _ => false
  | .outputFault _ _ _ => false
  | .timeMark _ _ => false
  | .void _ => false

/-- A record that an updated record may not stay in front of: one of the same set and line (R29), or a TIME_MARK (R56). -/
def Rec.forcesMove (w : SetId) (l : LineId) (r : Rec) : Bool :=
  match r.body with
  | .change w' l' _ _ => decide (w' = w) && decide (l' = l)
  | .chatterStart w' l' _ => decide (w' = w) && decide (l' = l)
  | .chatterEnd w' l' _ => decide (w' = w) && decide (l' = l)
  | .resyncMark _ _ => false
  | .outputFault _ _ _ => false
  | .timeMark _ _ => true
  | .void _ => false

/-- The step of time that a record makes: new time less old time of a TIME_MARK, 0 of any other record (R56). -/
def Rec.timeStep (r : Rec) : Time :=
  match r.body with
  | .timeMark old new => new - old
  | .change _ _ _ _ => 0
  | .chatterStart _ _ _ => 0
  | .chatterEnd _ _ _ => 0
  | .resyncMark _ _ => 0
  | .outputFault _ _ _ => 0
  | .void _ => 0

/-- A CHANGE record absorbs a further change: its level and last stamp follow it, its fold count rises, its stamp stays
(R28). -/
def Rec.absorb (level : Bool) (last : Time) (r : Rec) : Rec :=
  match r.body with
  | .change w l _ folded => { r with body := .change w l level (some (foldCount folded, last)) }
  | .chatterStart _ _ _ => r
  | .chatterEnd _ _ _ => r
  | .resyncMark _ _ => r
  | .outputFault _ _ _ => r
  | .timeMark _ _ => r
  | .void _ => r

/-- A record moved behind the records of a list: its stamp shifts by each TIME_MARK it passes (R56). -/
def Rec.movedPast (passed : List Rec) (r : Rec) : Rec := { r with stamp := r.stamp + (passed.map Rec.timeStep).sum }

/-- The LATEST update of the UNSENT part: the CHANGE record of the set and line is updated, in place or, where R29 or R56
asks for it, at the end; none where there is no such record (R28, R29, R56). -/
def absorbChange (w : SetId) (l : LineId) (level : Bool) (stamp : Time) : List Rec → Option (List Rec)
  | [] => none
  | r :: rest =>
    if r.isChangeOf w l then
      if rest.any (Rec.forcesMove w l) then some (rest ++ [(r.absorb level stamp).movedPast rest])
      else some (r.absorb level stamp :: rest)
    else (absorbChange w l level stamp rest).map (r :: ·)

/-- A failed admission of a set's record: the set is STALE with reason OVERRUN and its owner's status-changed mark is raised
(R31). -/
def State.overrunSet (s : State) (w : SetId) (ws : WatchSet) : State :=
  (s.putSet w (some { ws with phase := .stale .overrun })).raiseStatus ws.owner

/-- A record-mode set asks for the admission of a record in its owner's journal (R27, R30, R31). -/
def State.admitForSet (s : State) (w : SetId) (ws : WatchSet) (r : Rec) : State :=
  (s.tryAdmit ws.owner r).getD (s.overrunSet w ws)

/-- An ARMED LATEST set takes an event: a change updates the UNSENT CHANGE record of the line where there is one (R28, R30). -/
def State.hearLatest (s : State) (w : SetId) (ws : WatchSet) (l : LineId) (e : LineEvent) : State :=
  match e with
  | .change level stamp =>
    match absorbChange w l level stamp (s.journals.at ws.owner).unsent with
    | some unsent => s.putJournal ws.owner { s.journals.at ws.owner with unsent := unsent }
    | none => s.admitForSet w ws (e.record w l)
  | .chatterStart _ _ => s.admitForSet w ws (e.record w l)
  | .chatterEnd _ _ _ => s.admitForSet w ws (e.record w l)

/-- An ARMED SUMMARY set takes an event: the mismatch going from empty to non-empty sets the attention flag and raises the
owner's status-changed mark (R32). -/
def State.hearSummary (s : State) (w : SetId) (ws : WatchSet) (l : LineId) (e : LineEvent) : State :=
  let before := ws.mismatch fun m => if m = l then some e.before else s.level m
  if before.isEmpty && !(ws.mismatch s.level).isEmpty then
    (s.putSet w (some { ws with attention := true })).raiseStatus ws.owner
  else s

/-- A set takes an event of a line according to its state and mode (R26). -/
def State.hearSet (s : State) (w : SetId) (l : LineId) (e : LineEvent) : State :=
  match s.sets.at w with
  | none => s
  | some ws =>
    if ws.follows l then
      match ws.mode with
      | .each => s.admitForSet w ws (e.record w l)
      | .latest => s.hearLatest w ws l e
      | .summary => s.hearSummary w ws l e
    else s

end Sys2Proof.Machine
end

