-- ==== Sys2Proof/Machine/LineEvents.lean ====
section
/-! DEFINITION. The line events: RAW_EDGE, SETTLE_EXPIRY, DEBOUNCE_EXPIRY, CHATTER_WINDOW_EXPIRY and QUIET_EXPIRY, and how a
line hands what it produced to its neighbours (spec/01, 1.3 and 1.4). -/

namespace Sys2Proof.Machine

open Sys2Proof

/-- A neighbour that takes the news of a line at its own block (R15, R17). -/
inductive Hearer where
  | set (w : SetId)
  | output (o : OutId)
  deriving DecidableEq, Repr

/-- The set follows the line. -/
def State.setFollows (s : State) (w : SetId) (l : LineId) : Bool :=
  match s.sets.at w with
  | none => false
  | some ws => ws.follows l

/-- The neighbours on which the news of a line can have an effect: for an event the ARMED sets that contain it (a set in any
other state takes an event without effect, R26), and the Output Controller for a readback line (R15, R17). -/
def State.hearers (s : State) (l : LineId) (news : LineNews) : List Hearer :=
  let sets := match news with
    | .event _ => ((List.finRange 16).filter fun w => s.setFollows w l).map Hearer.set
    | .settled _ => []
    | .began => []
    | .abandoned _ => []
    | .reconfigured => []
  sets ++ (l.sensed.map Hearer.output).toList

/-- One neighbour takes the news. -/
def State.hear (l : LineId) (news : LineNews) (s : State) : Hearer → State
  | .set w =>
    match news with
    | .event e => s.hearSet w l e
    | .settled _ => s
    | .began => s
    | .abandoned _ => s
    | .reconfigured => s
  | .output o => s.hearOutput o news

/-- The news of a line is handed to its neighbours, in an order the spec leaves open (02 2.2, R59; log 6). -/
def State.tell (s : State) (l : LineId) (news : LineNews) : State :=
  (arrange s.choice (s.hearers l news)).foldl (State.hear l news) { s with choice := s.choice + 1 }

/-- A line takes the sample that waits for it, as one event (R3): its record changes and its neighbours hear of it. -/
def State.takeLine (s : State) (l : LineId) : State :=
  let r := s.lines.at l
  match r.waiting with
  | none => s
  | some x =>
    let taken := s.putLine l (r.take s.now s.time x).1
    match (r.take s.now s.time x).2 with
    | none => taken
    | some news => taken.tell l news

/-- The sample that waits for the line is a raw edge (R3). -/
def LineRec.rawEdgeDue (r : LineRec) : Bool :=
  match r.waiting with
  | none => false
  | some x => r.isEdge x

/-- The settle timer expires at the sample that waits for the line; with a nonzero debounce a raw edge restarts it instead
(R5). -/
def LineRec.settleDue (now : Nat) (r : LineRec) : Bool :=
  match r.waiting, r.state with
  | some x, .init settle => decide (r.config.debounce = 0) || (expired now settle && !r.isEdge x)
  | _, _ => false

/-- The debounce timer expires at the sample that waits for the line (R8). -/
def LineRec.debounceDue (now : Nat) (r : LineRec) : Bool :=
  match r.waiting, r.state with
  | some _, .pending _ _ expiry => decide (expiry ≤ now)
  | _, _ => false

/-- The quiet timer expires at the sample that waits for the line; a raw edge restarts it instead (R11). -/
def LineRec.quietDue (now : Nat) (r : LineRec) : Bool :=
  match r.waiting, r.state with
  | some x, .chatter _ quiet => decide (quiet ≤ now) && !r.isEdge x
  | _, _ => false

/-- The chatter window timer expires at the sample that waits for the line (R9). -/
def LineRec.windowDue (now : Nat) (r : LineRec) : Bool := r.waiting.isSome && expired now r.windowTimer

/-- The lines that have the sample in progress still to take. -/
def State.waitingLines (s : State) : List LineId := (List.finRange 64).filter fun l => (s.lines.at l).waiting.isSome

/-- Every line has taken the sample in progress: those that have still to take it do so, in an order the spec leaves open
(R15; logs 4 and 15). -/
def State.finishSample (s : State) : State :=
  match s.waitingLines with
  | [] => s
  | l :: ls => (arrange s.choice (l :: ls)).foldl State.takeLine { s with choice := s.choice + 1 }

/-- RAW_EDGE: a line takes a sample that differs from its last raw sample according to its state (R3, R5 to R8, R11). -/
def execRawEdge (l : LineId) (s : State) : Host.Outcome State Fault Refusal :=
  whenRunning s fun s => if (s.lines.at l).rawEdgeDue then s.takeLine l else s

/-- SETTLE_EXPIRY: D takes the input level and the line enters STABLE without an event (R5). -/
def execSettleExpiry (l : LineId) (s : State) : Host.Outcome State Fault Refusal :=
  whenRunning s fun s => if (s.lines.at l).settleDue s.now then s.takeLine l else s

/-- DEBOUNCE_EXPIRY: the expiry sample decides (R8, R10). -/
def execDebounceExpiry (l : LineId) (s : State) : Host.Outcome State Fault Refusal :=
  whenRunning s fun s => if (s.lines.at l).debounceDue s.now then s.takeLine l else s

/-- CHATTER_WINDOW_EXPIRY: the chatter count returns to 0 and the window timer stops (R9), as part of the line's one event for
that sample, together with the sample's level (R3, R4; log 4). -/
def execChatterWindowExpiry (l : LineId) (s : State) : Host.Outcome State Fault Refusal :=
  whenRunning s fun s => if (s.lines.at l).windowDue s.now then s.takeLine l else s

/-- QUIET_EXPIRY: the line leaves CHATTER with a chatter-end event (R12). -/
def execQuietExpiry (l : LineId) (s : State) : Host.Outcome State Fault Refusal :=
  whenRunning s fun s => if (s.lines.at l).quietDue s.now then s.takeLine l else s

end Sys2Proof.Machine
end

