-- ==== Sys2Proof/Machine/LineCommands.lean ====
section
/-! DEFINITION. The line requests: CONFIG_LINE, READ_LINE_CONFIG, READ_LINES and READ_COUNTERS (spec/01, 1.5). -/

namespace Sys2Proof.Machine

open Sys2Proof

/-- The configuration that CONFIG_LINE carries, when every field is in its range (R18, R176). -/
def configArgs (payload : List Byte) : Option LineConfig :=
  match argFlag payload 8, argFlag payload 9, argCounted payload 14 with
  | some enable, some invert, some counted =>
    if arg8 payload 10 ≤ 250 ∧ arg8 payload 11 ≤ 63 ∧ 10 ≤ argLe payload 12 2 ∧ argLe payload 12 2 ≤ 10000 then
      some { enable := enable, invert := invert, debounce := arg8 payload 10, chatterLimit := arg8 payload 11,
             chatterWindow := argLe payload 12 2, counted := counted }
    else none
  | none, _, _ => none
  | _, none, _ => none
  | _, _, none => none

/-- The line is a member of a set that is ARMED or STALE, whoever owns it (R18). -/
def State.lineInUse (s : State) (l : LineId) : Bool :=
  (List.finRange 16).any fun w =>
    match s.sets.at w with
    | none => false
    | some ws => ws.inUse && decide (l ∈ ws.members)

/-- The Output Controller hears that the readback line of an output was reconfigured (R142). -/
def State.reconfigureOutputs (s : State) (named : List LineId) : State :=
  (List.finRange 16).foldl
    (fun s o => if OutId.readback o ∈ named then s.hearOutput o .reconfigured else s) s

/-- An accepted CONFIG_LINE: every named line takes the configuration and enters INIT or DISABLED (R19), and the Output
Controller hears of each readback line among them (R142). -/
def State.configureLines (s : State) (named : List LineId) (c : LineConfig) : State :=
  (s.updateLines fun l r => if l ∈ named then r.configure c else r).reconfigureOutputs named

/-- CONFIG_LINE: the argument checks, the use check, then every named line (R18, R19). -/
def configLineOwn (_p : Port) (payload : List Byte) (s : State) : Answer :=
  let named := argMask 64 payload 0 8
  match configArgs payload with
  | none => refuse s .badArg
  | some c =>
    if named.isEmpty then refuse s .badArg
    else if named.any s.lineInUse then refuse s .inUse
    else accept (s.configureLines named c) []

/-- CONFIG_LINE. -/
def execConfigLine (p : Port) (s : State) : Host.Outcome State Fault Refusal :=
  .next (takeRequest .configLine configLineOwn p s)

/-- The lines of a run, when the first line and the count are in their ranges (R20, R21). -/
def lineRun (payload : List Byte) : Option (List LineId) :=
  let first := arg8 payload 0
  let count := arg8 payload 1
  if first < 64 ∧ 1 ≤ count ∧ count ≤ 16 ∧ first + count ≤ 64 then
    some ((List.finRange 64).filter fun l => decide (first ≤ l.val) && decide (l.val < first + count))
  else none

/-- The six configuration fields of a line (R177). -/
def LineConfig.bytes (c : LineConfig) : List Byte :=
  [flagByte c.enable, flagByte c.invert, byteOf c.debounce, byteOf c.chatterLimit] ++ leBytes 2 c.chatterWindow ++
    [c.counted.byte]

/-- READ_LINE_CONFIG changes nothing (R20). -/
def readLineConfigOwn (_p : Port) (payload : List Byte) (s : State) : Answer :=
  match lineRun payload with
  | none => refuse s .badArg
  | some run =>
    accept s ([byteOf (arg8 payload 0), byteOf (arg8 payload 1)] ++
      run.flatMap fun l => (s.lines.at l).config.bytes)

/-- READ_LINE_CONFIG. -/
def execReadLineConfig (p : Port) (s : State) : Host.Outcome State Fault Refusal :=
  .next (takeRequest .readLineConfig readLineConfigOwn p s)

/-- READ_COUNTERS: the counters as they stand, which the clear flag then returns to 0 in the same taking (R21). -/
def readCountersOwn (_p : Port) (payload : List Byte) (s : State) : Answer :=
  match lineRun payload, argFlag payload 2 with
  | some run, some clear =>
    let results := [byteOf (arg8 payload 0), byteOf (arg8 payload 1)] ++
      run.flatMap fun l => leBytes 4 (s.lines.at l).edges
    let after := if clear then s.updateLines fun l r => if l ∈ run then { r with edges := 0 } else r else s
    accept after results
  | none, _ => refuse s .badArg
  | _, none => refuse s .badArg

/-- READ_COUNTERS. -/
def execReadCounters (p : Port) (s : State) : Host.Outcome State Fault Refusal :=
  .next (takeRequest .readCounters readCountersOwn p s)

/-- One entry of READ_LINES: the line state, D, and the last raw sample (0 while it is none) in one byte (R178, R22). -/
def LineRec.entry (r : LineRec) : Byte :=
  byteOf (r.state.code + 8 * (levelByte r.state.level).toNat + 32 * (r.lastRaw.getD false).toNat)

/-- READ_LINES: the 64 entries as they stand between two samples (R22). The lines that have the sample in progress still to take
take it first, which is their own event; the request itself changes nothing (log 15). -/
def readLinesOwn (_p : Port) (_payload : List Byte) (s : State) : Answer :=
  accept s.finishSample ((List.finRange 64).map fun l => (s.finishSample.lines.at l).entry)

/-- READ_LINES. -/
def execReadLines (p : Port) (s : State) : Host.Outcome State Fault Refusal :=
  .next (takeRequest .readLines readLinesOwn p s)

end Sys2Proof.Machine
end

