-- ==== Sys2Proof/Machine/OutputCommands.lean ====
section
/-! DEFINITION. The output requests: CLAIM_OUTPUT, RELEASE_OUTPUT, WRITE_OUTPUTS, CONFIG_OUTPUT and READ_OUTPUTS (spec/07, 7.3;
the takeover of R119). -/

namespace Sys2Proof.Machine

open Sys2Proof

/-- A CLAIM_OUTPUT by session p refuses this output: another session owns it and is OPEN, or is LAPSED and take is clear
(R132). -/
def State.claimRefused (s : State) (p : Port) (take : Bool) (o : OutId) : Bool :=
  match (s.outputs.at o).state.owner with
  | none => false
  | some q => decide (q ≠ p) && !(take && s.isLapsed q)

/-- What an accepted claim by session p makes of an output: a FREE one is OWNED with its latch at the safe level, one of the
requester stays, and one of the other session is OWNED with its latch at the level it drives (R132, R119). -/
def Output.claim (p : Port) (o : Output) : Output :=
  match o.state.owner with
  | none => o.become { o with state := .owned p, latch := o.safe }
  | some q => if q = p then o else o.become { o with state := .owned p, latch := o.driven }

/-- The outputs that an accepted claim takes from the other session (R119). -/
def State.takenOutputs (s : State) (p : Port) (named : List OutId) : List OutId :=
  named.filter fun o => decide ((s.outputs.at o).state.owner = some p.other)

/-- An accepted CLAIM_OUTPUT (R132, R119). -/
def State.claim (s : State) (p : Port) (named : List OutId) : State :=
  let loser := s.sessions.at p.other
  let lost := (s.takenOutputs p named).foldl (fun list o => insertAscending o list) loser.lostOutputs
  (s.updateOutputs fun o r => if o ∈ named then r.claim p else r).putSession p.other { loser with lostOutputs := lost }

/-- CLAIM_OUTPUT: all the named outputs or none; the result is the level each named output drives after it (R132, R177). -/
def claimOutputOwn (p : Port) (payload : List Byte) (s : State) : Answer :=
  let named := argMask 16 payload 0 2
  match argFlag payload 2 with
  | none => refuse s .badArg
  | some take =>
    if named.isEmpty then refuse s .badArg
    else if named.any (s.claimRefused p take) then refuse s .conflict
    else
      let after := s.claim p named
      accept after (maskBytes 2 16 fun o => decide (o ∈ named) && (after.outputs.at o).driven)

/-- CLAIM_OUTPUT. -/
def execClaimOutput (p : Port) (s : State) : Host.Outcome State Fault Refusal :=
  .next (takeRequest .claimOutput claimOutputOwn p s)

/-- The output is owned by session p, in any state. -/
def State.ownsOutput (s : State) (p : Port) (o : OutId) : Bool := decide ((s.outputs.at o).state.owner = some p)

/-- RELEASE_OUTPUT: every named output becomes FREE (R134). -/
def releaseOutputOwn (p : Port) (payload : List Byte) (s : State) : Answer :=
  let named := argMask 16 payload 0 2
  if named.isEmpty then refuse s .badArg
  else if named.all (s.ownsOutput p) then
    accept (s.updateOutputs fun o r => if o ∈ named then r.release else r) []
  else refuse s .notOwner

/-- RELEASE_OUTPUT. -/
def execReleaseOutput (p : Port) (s : State) : Host.Outcome State Fault Refusal :=
  .next (takeRequest .releaseOutput releaseOutputOwn p s)

/-- A write by the owner: the latch takes the level and a SAFE_HELD output becomes OWNED (R135). -/
def Output.write (p : Port) (level : Bool) (o : Output) : Output := o.become { o with state := .owned p, latch := level }

/-- WRITE_OUTPUTS: the latches of the named outputs, all of them the requester's (R135). -/
def writeOutputsOwn (p : Port) (payload : List Byte) (s : State) : Answer :=
  let set := argMask 16 payload 0 2
  let clear := argMask 16 payload 2 2
  if set.isEmpty && clear.isEmpty then refuse s .badArg
  else if set.any fun o => decide (o ∈ clear) then refuse s .badArg
  else if set.all (s.ownsOutput p) && clear.all (s.ownsOutput p) then
    accept
      (s.updateOutputs fun o r => if o ∈ set then r.write p true else if o ∈ clear then r.write p false else r) []
  else refuse s .notOwner

/-- WRITE_OUTPUTS. -/
def execWriteOutputs (p : Port) (s : State) : Host.Outcome State Fault Refusal :=
  .next (takeRequest .writeOutputs writeOutputsOwn p s)

/-- The configuration written, and its effect on verification: OFF with verify enable off, otherwise a new wait, whether or
not the driven level changed (R136, R142). -/
def Output.configure (safe : Bool) (grace : Nat) (enable : Bool) (time : Nat) (o : Output) : Output :=
  Output.restartVerify { o with safe := safe, grace := grace, verifyEnable := enable, verifyTime := time }

/-- CONFIG_OUTPUT (R136). -/
def configOutputOwn (p : Port) (payload : List Byte) (s : State) : Answer :=
  match arg16th payload 0, argFlag payload 1, argFlag payload 4 with
  | some o, some safe, some enable =>
    let grace := argLe payload 2 2
    let time := arg8 payload 5
    if grace ≤ 60000 ∧ 1 ≤ time ∧ time ≤ 250 then
      if s.ownsOutput p o then accept (s.putOutput o ((s.outputs.at o).configure safe grace enable time)) []
      else refuse s .notOwner
    else refuse s .badArg
  | none, _, _ => refuse s .badArg
  | _, none, _ => refuse s .badArg
  | _, _, none => refuse s .badArg

/-- CONFIG_OUTPUT. -/
def execConfigOutput (p : Port) (s : State) : Host.Outcome State Fault Refusal :=
  .next (takeRequest .configOutput configOutputOwn p s)

/-- One entry of READ_OUTPUTS: nine bytes (R178, R137). -/
def State.outputEntry (s : State) (o : OutId) : List Byte :=
  let r := s.outputs.at o
  let line := (s.lines.at (OutId.readback o)).state
  [ownerByte r.state.owner, r.state.byte,
    byteOf (bitsToNat [r.latch, r.driven, r.safe, r.verifyEnable, r.fault])] ++ leBytes 2 r.grace ++
    [byteOf r.verifyTime, r.verify.byte, levelByte line.level, byteOf line.code]

/-- READ_OUTPUTS: every output as it stands; then fault latched becomes 0 for the outputs named (R137). -/
def readOutputsOwn (p : Port) (payload : List Byte) (s : State) : Answer :=
  let named := argMask 16 payload 0 2
  if named.all (s.ownsOutput p) then
    accept (s.updateOutputs fun o r => if o ∈ named then { r with fault := false } else r)
      ((List.finRange 16).flatMap s.outputEntry)
  else refuse s .notOwner

/-- READ_OUTPUTS. -/
def execReadOutputs (p : Port) (s : State) : Host.Outcome State Fault Refusal :=
  .next (takeRequest .readOutputs readOutputsOwn p s)

end Sys2Proof.Machine
end

