-- ==== Sys2Proof/Machine/OutputEvents.lean ====
section
/-! DEFINITION. The output events: GRACE_EXPIRY and VERIFY_EXPIRY (spec/07, R130 and R139). -/

namespace Sys2Proof.Machine

open Sys2Proof

/-- The expiry of the grace timer of an output (R130). -/
def State.expireGrace (s : State) (o : OutId) : State := s.putOutput o ((s.outputs.at o).endGrace s.now)

/-- GRACE_EXPIRY. -/
def execGraceExpiry (o : OutId) (s : State) : Host.Outcome State Fault Refusal := whenRunning s fun s => s.expireGrace o

/-- VERIFY_EXPIRY. -/
def execVerifyExpiry (o : OutId) (s : State) : Host.Outcome State Fault Refusal := whenRunning s fun s => s.verifyOutput o

end Sys2Proof.Machine
end

