-- ==== Sys2Proof/Machine/PortEvents.lean ====
section
/-! DEFINITION. The link events: CHARACTER_RECEIVED, GAP_EXPIRY, RESPONSE_SEND, FRAME_END and LINE_RETURNS_TO_IDLE (spec/09). -/

namespace Sys2Proof.Machine

open Sys2Proof

/-! ### The frame receiver -/

/-- The frame in reception is discarded: the receiver is in HUNT, the gap timer stopped, and the discarded count rises
(R163). -/
def LinkPort.discard (port : LinkPort) : LinkPort :=
  { port with receiver := .hunt, discarded := countDiscard port.discarded }

/-- A valid frame is handed on: it restarts an OPEN session's silence timer, and it joins the request queue or, when the queue
is full, is dropped with the overrun flag set (R164). -/
def State.handOn (s : State) (p : Port) (f : Frame) : State :=
  let s := s.restartSilence p
  let port := s.ports.at p
  if port.requests.length < Config.queueDepth then s.putPort p { port with requests := port.requests ++ [f] }
  else s.putPort p { port with overrun := true }

/-- A character in LENGTH: a LEN of 2 to 248 begins the body, any other value discards the frame (R160). -/
def State.takeLength (s : State) (p : Port) (c : Byte) (gap : Nat) : State :=
  if 2 ≤ c.toNat ∧ c.toNat ≤ 248 then s.putPort p { s.ports.at p with receiver := .body c [] gap }
  else s.putPort p (s.ports.at p).discard

/-- A character in BODY is stored; with LEN bytes stored the receiver enters CRC (R160). -/
def State.takeBody (s : State) (p : Port) (c : Byte) (len : Byte) (got : List Byte) (gap : Nat) : State :=
  let stored := got ++ [c]
  s.putPort p
    { s.ports.at p with
      receiver := if stored.length < len.toNat then .body len stored gap else .crc len stored none gap }

/-- The second check byte: the frame is valid and handed on, or discarded (R161). -/
def State.takeCheck (s : State) (p : Port) (len : Byte) (got : List Byte) (low high : Byte) : State :=
  if (crc16 (len :: got)).toNat = leNat [low, high] then
    (s.putPort p { s.ports.at p with receiver := .hunt }).handOn p (Frame.ofContent got)
  else s.putPort p (s.ports.at p).discard

/-- A character without a framing error, by the receiver's state; inside a frame it restarts the gap timer (R160, R162). -/
def State.takeCharacter (s : State) (p : Port) (c : Byte) : State :=
  let gap := s.after Config.gapLimit
  match (s.ports.at p).receiver with
  | .hunt => if c = Config.sync then s.putPort p { s.ports.at p with receiver := .length gap } else s
  | .length _ => s.takeLength p c gap
  | .body len got _ => s.takeBody p c len got gap
  | .crc len got none _ => s.putPort p { s.ports.at p with receiver := .crc len got (some c) gap }
  | .crc len got (some low) _ => s.takeCheck p len got low c

/-- A character with a framing error: dropped in HUNT, and anywhere else it discards the frame in reception (R158). -/
def State.takeFramingError (s : State) (p : Port) : State :=
  match (s.ports.at p).receiver with
  | .hunt => s
  | .length _ => s.putPort p (s.ports.at p).discard
  | .body _ _ _ => s.putPort p (s.ports.at p).discard
  | .crc _ _ _ _ => s.putPort p (s.ports.at p).discard

/-- After a break the receiver waits for the line to return to the idle level (R158). -/
def State.awaitIdle (s : State) (p : Port) : State := s.putPort p { s.ports.at p with awaitIdle := true }

/-- A character reaches the receiver of a port; while the receiver waits for an idle line it recognises none (R158). -/
def State.receive (s : State) (p : Port) (c : Byte) (stop : Framing) : State :=
  if (s.ports.at p).awaitIdle then s
  else
    match stop with
    | .good => s.takeCharacter p c
    | .error => s.takeFramingError p
    | .brk => (s.takeFramingError p).awaitIdle p

/-- CHARACTER_RECEIVED. -/
def execCharacterReceived (p : Port) (c : Byte) (stop : Framing) (s : State) : Host.Outcome State Fault Refusal :=
  whenRunning s fun s => s.receive p c stop

/-- The gap timer has expired; it runs in LENGTH, BODY and CRC (R162). -/
def Receiver.gapDue (now : Nat) : Receiver → Bool
  | .hunt => false
  | .length gap => decide (gap ≤ now)
  | .body _ _ gap => decide (gap ≤ now)
  | .crc _ _ _ gap => decide (gap ≤ now)

/-- The expiry of the gap timer: the frame in reception is discarded (R162). -/
def State.expireGap (s : State) (p : Port) : State :=
  if (s.ports.at p).receiver.gapDue s.now then s.putPort p (s.ports.at p).discard else s

/-- GAP_EXPIRY. -/
def execGapExpiry (p : Port) (s : State) : Host.Outcome State Fault Refusal := whenRunning s fun s => s.expireGap p

/-- The receiver of the port again recognises start bits (R158). -/
def State.lineIdle (s : State) (p : Port) : State := s.putPort p { s.ports.at p with awaitIdle := false }

/-- LINE_RETURNS_TO_IDLE. -/
def execLineReturnsToIdle (p : Port) (s : State) : Host.Outcome State Fault Refusal := whenRunning s fun s => s.lineIdle p

/-! ### The transmitter -/

/-- At a frame boundary the oldest response leaves the response queue and begins transmission (R168, R169). -/
def State.sendResponse (s : State) (p : Port) : State :=
  let port := s.ports.at p
  match port.sending, port.responses with
  | none, f :: rest => s.putPort p { port with sending := some f, responses := rest }
  | none, [] => s
  | some _, _ => s

/-- RESPONSE_SEND. -/
def execResponseSend (p : Port) (s : State) : Host.Outcome State Fault Refusal := whenRunning s fun s => s.sendResponse p

/-- The frame is the response of an accepted RESTART (R152, R174). -/
def Frame.isRestartOk (f : Frame) : Bool :=
  decide (f.kind = responseKind ReqKind.restart.code) && decide (f.payload.head? = some Status.ok.byte)

/-- The frame on the line is the response of the RESTART pending on the port; its end is RESTART_RESET (R154). -/
def LinkPort.sendingRestart (port : LinkPort) : Bool :=
  port.restartPending &&
    match port.sending with
    | none => false
    | some f => f.isRestartOk

/-- The end of a frame: the transmitter is free, and the boundary is the arbiter's (R168, R169). The end of a pending
RESTART's response is RESTART_RESET's (R154; log 19). -/
def State.endFrame (s : State) (p : Port) : State :=
  if (s.ports.at p).sendingRestart then s else s.putPort p { s.ports.at p with sending := none }

/-- FRAME_END. -/
def execFrameEnd (p : Port) (s : State) : Host.Outcome State Fault Refusal := whenRunning s fun s => s.endFrame p

end Sys2Proof.Machine
end

