-- ==== Sys2Proof/Machine/ResetEvents.lean ====
section
/-! DEFINITION. The reset events: RESTART_RESET, POWER_ON, RSTN_LOW, RSTN_HIGH, SUPPLY_DIP, SUPPLY_DIP_END and
SUPPLY_BELOW_POWER_ON_THRESHOLD (spec/08, 8.4 and 8.5). -/

namespace Sys2Proof.Machine

open Sys2Proof

/-- The reset of a RESTART: the period is the part's own and ends by itself, unless RSTn or the dip detector has also asserted
reset; then it goes on, with the cause of the RESTART that began it, until no source asserts (R149, R154; log 23). -/
def State.restartBy (s : State) : RestartPeriod → State
  | .own straps => (s.assertReset .restart).endReset straps
  | .withPin => { s with rstnLow := true }.assertReset .restart
  | .withDip => { s with dipLow := true }.assertReset .restart

/-- RESTART_RESET: the last byte of the pending RESTART's response has left, and the part resets (R154). -/
def execRestartReset (p : Port) (period : RestartPeriod) (s : State) : Host.Outcome State Fault Refusal :=
  whenRunning s fun s => if (s.ports.at p).sendingRestart then s.restartBy period else s

/-- POWER_ON: power is applied. The reset is a power-on; it ends here unless RSTn or the dip detector still asserts (R149;
log 12). -/
def execPowerOn (straps : Straps) (s : State) : Host.Outcome State Fault Refusal :=
  .next (({ s with powerLow := false }.assertReset .powerOn).endReset straps)

/-- RSTN_LOW: the pin asserts reset (R150). -/
def execRstnLow (s : State) : Host.Outcome State Fault Refusal := .next ({ s with rstnLow := true }.assertReset .pin)

/-- RSTN_HIGH: the pin releases reset (R150). -/
def execRstnHigh (straps : Straps) (s : State) : Host.Outcome State Fault Refusal :=
  .next ({ s with rstnLow := false }.endReset straps)

/-- SUPPLY_DIP: the detector asserts reset (R151). -/
def execSupplyDip (s : State) : Host.Outcome State Fault Refusal := .next ({ s with dipLow := true }.assertReset .supplyDip)

/-- SUPPLY_DIP_END: the supply is above the dip threshold, and so above the power-on threshold; the detector releases reset
(R151; log 12). -/
def execSupplyDipEnd (straps : Straps) (s : State) : Host.Outcome State Fault Refusal :=
  .next ({ s with dipLow := false, powerLow := false }.endReset straps)

/-- SUPPLY_BELOW_POWER_ON_THRESHOLD: a power-on reset, whatever the detector has asserted (R151). -/
def execSupplyBelowPowerOn (s : State) : Host.Outcome State Fault Refusal :=
  .next ({ s with powerLow := true }.assertReset .powerOn)

end Sys2Proof.Machine
end

