-- ==== Sys2Proof/Machine/SessionEvents.lean ====
section
/-! DEFINITION. The Notice Engine and session events: NOTICE_BUILD, RETRANSMIT_EXPIRY, SILENCE_EXPIRY and RETAIN_EXPIRY (spec/04,
4.3 and 4.4; spec/05, 5.4). -/

namespace Sys2Proof.Machine

open Sys2Proof

/-! ### Building a notice -/

/-- The window of a session (R75); none when it is not OPEN. -/
def State.openParams? (s : State) (p : Port) : Option Params :=
  match (s.sessions.at p).state with
  | .closed => none
  | .opened prm _ => some prm
  | .lapsed _ _ _ => none

/-- The engine has work: the go-back mark is set, or an UNSENT record waits with the window open, or the status-changed mark
is raised (R76). -/
def State.hasWork (s : State) (p : Port) (window : Nat) : Bool :=
  (s.engines.at p).goBack.isSome ||
    (!(s.journals.at p).unsent.isEmpty && decide ((s.journals.at p).inflight.length < window)) ||
    (s.engines.at p).statusChanged

/-- The transmitter of a port is free: no frame is being transmitted (R76). -/
def LinkPort.idle (port : LinkPort) : Bool := port.sending.isNone

/-- The longest run at the front that keeps within both limits of a notice: so many records, and so many bytes (R77). -/
def placed : Nat → Nat → List Rec → List Rec
  | _, _, [] => []
  | 0, _, _ :: _ => []
  | n + 1, bytes, r :: rest =>
    if r.bytes.length ≤ bytes then r :: placed n (bytes - r.bytes.length) rest else []

/-- The bytes that records take in a notice (R180). -/
def bodyBytes (records : List Rec) : List Byte := records.flatMap Rec.bytes

/-- The INFLIGHT records that a go-back has still to send again: from the resend point to the newest (R77). -/
def resendRun (mark : Option Seq) (inflight : List Sent) : List Sent :=
  match mark with
  | none => []
  | some r => inflight.dropWhile fun x => decide (x.seq ≠ r)

/-- Records numbered from a sequence number upward (R74). -/
def number : Seq → List Rec → List Sent
  | _, [] => []
  | n, r :: rest => { seq := n, entry := r } :: number (n + 1) rest

/-- What a notice carries and leaves behind: the records resent, the records sent for the first time, and the go-back mark
after it (R77). -/
structure Choice where
  resent : List Sent
  fresh : List Rec
  mark : Option Seq

/-- The records of a notice (R77): first the go-back, and, when that is done, UNSENT records while the window is open. -/
def chooseRecords (window : Nat) (e : Engine) (j : Journal) : Choice :=
  let run := resendRun e.goBack j.inflight
  let resent := run.take (placed Config.noticeRecords Config.noticeBytes (run.map Sent.entry)).length
  let mark := (run.drop resent.length).head?.map Sent.seq
  let room := Config.noticeBytes - (bodyBytes (resent.map Sent.entry)).length
  let fresh :=
    if mark.isNone then
      (placed (Config.noticeRecords - resent.length) room j.unsent).take (window - j.inflight.length)
    else []
  { resent := resent, fresh := fresh, mark := mark }

/-- The records of the notice in sequence order, with their numbers. -/
def Choice.records (c : Choice) (next : Seq) : List Sent := c.resent ++ number next c.fresh

/-- The notice places the oldest INFLIGHT record, as a resend or for the first time (R82). -/
def Choice.placesOldest (c : Choice) (j : Journal) : Bool :=
  match j.inflight with
  | [] => !c.fresh.isEmpty
  | x :: _ => decide (c.resent.head? = some x)

/-- FLAGS of a notice: the loss flag and repeat (R179). -/
def noticeFlags (loss rep : Bool) : Byte := byteOf (bitsToNat [loss, rep])

/-- The frame of a notice (R78, R179). -/
def State.noticeFrame (s : State) (p : Port) (c : Choice) : Frame :=
  let e := s.engines.at p
  let records := c.records e.nextSeq
  let first := (records.head?.map Sent.seq).getD e.nextSeq
  { kind := noticeKind
    tag := e.noticeNumber
    payload :=
      leBytes 2 first.toNat ++
        [byteOf records.length, noticeFlags (s.sessions.at p).loss (!c.resent.isEmpty)] ++
        maskBytes 2 16 (s.staleMask p) ++ maskBytes 2 16 (s.attentionMask p) ++ bodyBytes (records.map Sent.entry) }

/-- The journal after the building: the records sent for the first time are INFLIGHT behind the others (R77, R50). -/
def Journal.sendFresh (next : Seq) (fresh : List Rec) (j : Journal) : Journal :=
  { inflight := j.inflight ++ number next fresh, unsent := j.unsent.drop fresh.length }

/-- The engine after the building (R74, R77, R78, R79, R82). -/
def Engine.built (restart : Nat) (c : Choice) (j : Journal) (e : Engine) : Engine :=
  { e with
    nextSeq := e.nextSeq + BitVec.ofNat 16 c.fresh.length
    goBack := c.mark
    noticeNumber := e.noticeNumber + 1
    statusChanged := false
    retransmit := if c.placesOldest j then some restart else e.retransmit }

/-- The building of a notice and the start of its transmission, as one event (R76 to R79). -/
def State.sendNotice (s : State) (p : Port) (window : Nat) : State :=
  let e := s.engines.at p
  let j := s.journals.at p
  let c := chooseRecords window e j
  let sent := s.putPort p { s.ports.at p with sending := some (s.noticeFrame p c) }
  (sent.putJournal p (j.sendFresh e.nextSeq c.fresh)).putEngine p (e.built (s.retransmitExpiry p) c j)

/-- A notice is built when the session is OPEN, the transmitter is free, no response waits and the engine has work (R76). -/
def State.buildNotice (s : State) (p : Port) : State :=
  match s.openParams? p with
  | none => s
  | some prm =>
    if (s.ports.at p).idle && (s.ports.at p).responses.isEmpty && s.hasWork p prm.window then s.sendNotice p prm.window
    else s

/-- NOTICE_BUILD. -/
def execNoticeBuild (p : Port) (s : State) : Host.Outcome State Fault Refusal := whenRunning s fun s => s.buildNotice p

/-! ### Expiries -/

/-- The expiry of the retransmit timer: the retry count rises, and past the retry limit the session lapses; otherwise the
go-back mark is set at the oldest INFLIGHT record (R83, R84). -/
def State.expireRetransmit (s : State) (p : Port) : State :=
  let e := s.engines.at p
  if expired s.now e.retransmit then
    let counted := s.putEngine p { e with retryCount := e.retryCount + 1, retransmit := none }
    match s.openParams? p with
    | none => counted
    | some prm =>
      if prm.retryLimit < e.retryCount + 1 then counted.lapse p .retry
      else
        counted.putEngine p
          { counted.engines.at p with goBack := (s.journals.at p).inflight.head?.map Sent.seq }
  else s

/-- RETRANSMIT_EXPIRY. -/
def execRetransmitExpiry (p : Port) (s : State) : Host.Outcome State Fault Refusal :=
  whenRunning s fun s => s.expireRetransmit p

/-- The silence timer of an OPEN session has expired (R103). -/
def SessState.silenceDue (now : Nat) : SessState → Bool
  | .closed => false
  | .opened _ silence => decide (silence ≤ now)
  | .lapsed _ _ _ => false

/-- The expiry of the silence timer: the session lapses with reason SILENCE (R103). -/
def State.expireSilence (s : State) (p : Port) : State :=
  if (s.sessions.at p).state.silenceDue s.now then s.lapse p .silence else s

/-- SILENCE_EXPIRY. -/
def execSilenceExpiry (p : Port) (s : State) : Host.Outcome State Fault Refusal :=
  whenRunning s fun s => s.expireSilence p

/-- The retain timer of a LAPSED session has expired (R106). -/
def SessState.retainDue (now : Nat) : SessState → Bool
  | .closed => false
  | .opened _ _ => false
  | .lapsed _ _ retain => decide (retain ≤ now)

/-- The expiry of the retain timer: the session is torn down and CLOSED (R106). -/
def State.expireRetain (s : State) (p : Port) : State :=
  if (s.sessions.at p).state.retainDue s.now then s.teardown p else s

/-- RETAIN_EXPIRY. -/
def execRetainExpiry (p : Port) (s : State) : Host.Outcome State Fault Refusal :=
  whenRunning s fun s => s.expireRetain p

end Sys2Proof.Machine
end

