-- ==== Sys2Proof/Machine/Sample.lean ====
section
/-! DEFINITION. SAMPLE, the clock of the part: the Line Front End samples all 64 lines every 0.25 ms (R3), and every timer
counts by its samples (R4, R145). -/

namespace Sys2Proof.Machine

open Sys2Proof

/-- An event that is due at the sample in progress: a line has still to take its sample, or a timer has expired. -/
inductive Due where
  | line (l : LineId)
  | verify (o : OutId)
  | grace (o : OutId)
  | retransmit (p : Port)
  | silence (p : Port)
  | retain (p : Port)
  | gap (p : Port)
  deriving DecidableEq, Repr

/-- The events of one port that are due. -/
def State.dueAt (s : State) (p : Port) : List Due :=
  (if expired s.now (s.engines.at p).retransmit then [.retransmit p] else []) ++
    (if (s.sessions.at p).state.silenceDue s.now then [.silence p] else []) ++
    (if (s.sessions.at p).state.retainDue s.now then [.retain p] else []) ++
    (if (s.ports.at p).receiver.gapDue s.now then [.gap p] else [])

/-- Every event that is due. -/
def State.due (s : State) : List Due :=
  s.waitingLines.map Due.line ++
    ((List.finRange 16).filter fun o => (s.outputs.at o).verifyDue s.now).map Due.verify ++
    ((List.finRange 16).filter fun o => (s.outputs.at o).graceDue s.now).map Due.grace ++
    s.dueAt .A ++ s.dueAt .B

/-- One due event is taken; one that an earlier one has stopped is no longer due and does nothing. -/
def State.takeDue (s : State) : Due → State
  | .line l => s.takeLine l
  | .verify o => s.verifyOutput o
  | .grace o => s.expireGrace o
  | .retransmit p => s.expireRetransmit p
  | .silence p => s.expireSilence p
  | .retain p => s.expireRetain p
  | .gap p => s.expireGap p

/-- Every event still due is taken, in an order the spec leaves open (R15, R139; log 4). -/
def State.takeAllDue (s : State) : State :=
  (arrange s.choice s.due).foldl State.takeDue { s with choice := s.choice + 1 }

/-- The time count at a sample: it increases at the fourth sample after a reset and at every fourth one after that (R145). -/
def timeAt (now : Nat) (time : Time) : Time := if now % Config.samplesPerMs = 0 then time + 1 else time

/-- The sample itself: the time count moves at a millisecond boundary, every line is offered its raw level, and verify timers
start (R3, R5, R138, R145). -/
def State.tick (raw : BitVec 64) (s : State) : State :=
  let now := s.now + 1
  let time := timeAt now s.time
  let stepped : State := { s with now := now, time := time }
  (stepped.updateLines fun l r => r.offer now time (raw.getLsbD l.val)).updateOutputs fun _ o => o.startVerify now

/-- SAMPLE: what is still due is taken, and then the sample (R3; log 4). -/
def execSample (raw : BitVec 64) (s : State) : Host.Outcome State Fault Refusal :=
  whenRunning s fun s => s.takeAllDue.tick raw

end Sys2Proof.Machine
end

