-- ==== Sys2Proof/Machine/SetCommands.lean ====
section
/-! DEFINITION. The set requests: DEFINE_SET, ARM_SET, DISARM_SET, DELETE_SET, READ_SET, ACK_SET, RESYNC_SET (spec/02, 2.3) and
ADOPT_SET (spec/06, 6.1). -/

namespace Sys2Proof.Machine

open Sys2Proof

/-- The D of each member in ascending line order; a member whose D is unknown counts as 0 here (callers that need every D
known check it). -/
def State.memberLevels (s : State) (ws : WatchSet) : List Bool := ws.members.map fun l => (s.level l).getD false

/-- Every member has a known D (R37). -/
def State.levelsKnown (s : State) (ws : WatchSet) : Bool := ws.members.all fun l => (s.level l).isSome

/-- The results that return member levels: the count and the level list (R177). -/
def levelResults (levels : List Bool) : List Byte := byteOf levels.length :: levelListBytes levels

/-- The checks that the requests on an existing set make first: FREE gives WRONG_STATE, the other session's NOT_OWNER
(R34). -/
def ownSet (p : Port) (payload : List Byte) (s : State) (own : SetId → WatchSet → Answer) : Answer :=
  match arg16th payload 0 with
  | none => refuse s .badArg
  | some w =>
    match s.sets.at w with
    | none => refuse s .wrongState
    | some ws => if ws.owner = p then own w ws else refuse s .notOwner

/-- The set record that an accepted DEFINE_SET writes (R35). -/
def defined (p : Port) (mode : SetMode) (members : List LineId) : WatchSet :=
  { owner := p, mode := mode, members := members, snapshot := none, phase := .idle, attention := false }

/-- DEFINE_SET: the argument checks, then the outcome by the set found (R35). -/
def defineSetOwn (p : Port) (payload : List Byte) (s : State) : Answer :=
  match arg16th payload 0, argMode payload 1 with
  | some w, some mode =>
    let members := argMask 64 payload 2 8
    if members.isEmpty then refuse s .badArg
    else
      match s.sets.at w with
      | none => accept (s.putSet w (some (defined p mode members))) []
      | some ws =>
        if ws.owner ≠ p then refuse s .notOwner
        else if ws.inUse then refuse s .wrongState
        else accept (s.putSet w (some (defined p mode members))) []
  | none, _ => refuse s .badArg
  | _, none => refuse s .badArg

/-- DEFINE_SET. -/
def execDefineSet (p : Port) (s : State) : Host.Outcome State Fault Refusal := .next (takeRequest .defineSet defineSetOwn p s)

/-- The snapshot taken from the members' D, the attention flag cleared, the set ARMED (R37, R41, R45). -/
def State.snapSet (s : State) (w : SetId) (ws : WatchSet) : Answer :=
  accept (s.putSet w (some { ws with snapshot := some (s.memberLevels ws), phase := .armed, attention := false }))
    (levelResults (s.memberLevels ws))

/-- ARM_SET: an IDLE set whose members' D are all known becomes ARMED with those levels as its snapshot (R37). -/
def armSetOwn (p : Port) (payload : List Byte) (s : State) : Answer :=
  ownSet p payload s fun w ws =>
    if ws.phase ≠ .idle then refuse s .wrongState
    else if s.levelsKnown ws then s.snapSet w ws
    else refuse s .wrongState

/-- ARM_SET. -/
def execArmSet (p : Port) (s : State) : Host.Outcome State Fault Refusal := .next (takeRequest .armSet armSetOwn p s)

/-- The UNSENT records of a set leave its owner's journal and its INFLIGHT records become VOID (R38, R66, R115). -/
def State.voidSet (s : State) (p : Port) (w : SetId) : State :=
  s.putJournal p (((s.journals.at p).dropUnsentOf w).voidInflightOf w)

/-- DISARM_SET: the set's records are removed or voided and it becomes IDLE, its snapshot kept (R38). -/
def disarmSetOwn (p : Port) (payload : List Byte) (s : State) : Answer :=
  ownSet p payload s fun w ws =>
    if ws.inUse then accept ((s.voidSet p w).putSet w (some { ws with phase := .idle, attention := false })) []
    else refuse s .wrongState

/-- DISARM_SET. -/
def execDisarmSet (p : Port) (s : State) : Host.Outcome State Fault Refusal := .next (takeRequest .disarmSet disarmSetOwn p s)

/-- DELETE_SET: an IDLE set becomes FREE (R39). -/
def deleteSetOwn (p : Port) (payload : List Byte) (s : State) : Answer :=
  ownSet p payload s fun w ws =>
    if ws.phase ≠ .idle then refuse s .wrongState else accept (s.putSet w none) []

/-- DELETE_SET. -/
def execDeleteSet (p : Port) (s : State) : Host.Outcome State Fault Refusal := .next (takeRequest .deleteSet deleteSetOwn p s)

/-- The level that a set's snapshot holds for a line; false for a non-member or without a snapshot (R177). -/
def WatchSet.snapshotLevel (ws : WatchSet) (l : LineId) : Bool :=
  match ws.snapshot with
  | none => false
  | some snap => (((ws.members.zip snap).find? fun m => m.1 = l).map Prod.snd).getD false

/-- The results of READ_SET (R40, R177). -/
def readSetResults (w : SetId) (ws : WatchSet) (s : State) : List Byte :=
  [ownerByte (some ws.owner), ws.phase.byte, ws.phase.reasonByte, ws.mode.byte] ++
    maskBytes 8 64 (fun l => decide (l ∈ ws.members)) ++
    [flagByte ws.snapshot.isSome] ++
    maskBytes 8 64 (fun l => decide (l ∈ ws.members) && ws.snapshotLevel l) ++
    maskBytes 8 64 (fun l => decide (l ∈ ws.members) && (s.level l).getD false) ++
    maskBytes 8 64 (fun l => decide (l ∈ ws.members) && (s.level l).isNone) ++
    maskBytes 8 64 (fun l => decide (l ∈ ws.mismatch s.level)) ++
    [flagByte ws.attention, byteOf ((s.journals.at ws.owner).heldOf w)] ++
    ws.members.map fun l => byteOf (s.lines.at l).state.code

/-- READ_SET: either session may read any set that is not FREE; reading changes nothing (R40). -/
def readSetOwn (_p : Port) (payload : List Byte) (s : State) : Answer :=
  match arg16th payload 0 with
  | none => refuse s .badArg
  | some w =>
    match s.sets.at w with
    | none => refuse s .wrongState
    | some ws => accept s (readSetResults w ws s)

/-- READ_SET. -/
def execReadSet (p : Port) (s : State) : Host.Outcome State Fault Refusal := .next (takeRequest .readSet readSetOwn p s)

/-- ACK_SET: an ARMED SUMMARY set takes its members' D as its snapshot and clears its attention flag (R41). -/
def ackSetOwn (p : Port) (payload : List Byte) (s : State) : Answer :=
  ownSet p payload s fun w ws =>
    if ws.mode = .summary ∧ ws.phase = .armed then s.snapSet w ws else refuse s .wrongState

/-- ACK_SET. -/
def execAckSet (p : Port) (s : State) : Host.Outcome State Fault Refusal := .next (takeRequest .ackSet ackSetOwn p s)

/-- The RESYNC_MARK of a set: its stamp is the time count and it carries the D of every member (R43, R54). -/
def State.resyncMark (s : State) (w : SetId) (ws : WatchSet) : Rec :=
  { stamp := s.time, body := .resyncMark w (s.memberLevels ws) }

/-- RESYNC_SET of a record-mode set: its UNSENT records leave, the mark is admitted with the holding so reduced, and the set
is ARMED; without room nothing changes (R43, R44). -/
def State.resyncRecords (s : State) (p : Port) (w : SetId) (ws : WatchSet) : Answer :=
  let cleared := s.putJournal p ((s.journals.at p).dropUnsentOf w)
  match cleared.tryAdmit p (s.resyncMark w ws) with
  | none => refuse s .noRoom
  | some s' => accept (s'.putSet w (some { ws with phase := .armed })) (levelResults (s.memberLevels ws))

/-- RESYNC_SET: for a record-mode set a mark in the journal, for a SUMMARY set a new snapshot (R43, R45). -/
def resyncSetOwn (p : Port) (payload : List Byte) (s : State) : Answer :=
  ownSet p payload s fun w ws =>
    if ws.inUse then
      match ws.mode with
      | .each => s.resyncRecords p w ws
      | .latest => s.resyncRecords p w ws
      | .summary => s.snapSet w ws
    else refuse s .wrongState

/-- RESYNC_SET. -/
def execResyncSet (p : Port) (s : State) : Host.Outcome State Fault Refusal := .next (takeRequest .resyncSet resyncSetOwn p s)

/-- The phase of a set after its adoption: STALE (ADOPTED) from ARMED and STALE, IDLE from IDLE (R114). -/
def SetPhase.adopt : SetPhase → SetPhase
  | .idle => .idle
  | .armed => .stale .adopted
  | .stale _ => .stale .adopted

/-- An accepted adoption by session p from the other session: the set record, the other session's journal, its lost-sets list,
and p's status-changed mark (R114, R115, R116). -/
def State.adopt (s : State) (p : Port) (w : SetId) (ws : WatchSet) : State :=
  let loser := s.sessions.at p.other
  let moved := (s.voidSet p.other w).putSet w (some { ws with owner := p, phase := ws.phase.adopt })
  (moved.putSession p.other { loser with lostSets := insertAscending w loser.lostSets }).raiseStatus p

/-- ADOPT_SET: its own checks in the order of R113's table, then the adoption, whose result is the set's state after it. -/
def adoptSetOwn (p : Port) (payload : List Byte) (s : State) : Answer :=
  match arg16th payload 0 with
  | none => refuse s .badArg
  | some w =>
    match s.sets.at w with
    | none => refuse s .wrongState
    | some ws =>
      if ws.owner = p then refuse s .wrongState
      else if s.isLapsed p.other then accept (s.adopt p w ws) [ws.phase.adopt.byte]
      else refuse s .conflict

/-- ADOPT_SET. -/
def execAdoptSet (p : Port) (s : State) : Host.Outcome State Fault Refusal := .next (takeRequest .adoptSet adoptSetOwn p s)

end Sys2Proof.Machine
end

