-- ==== Sys2Proof/Machine/Dispatch.lean ====
section
/-! DEFINITION. One arm per command, each a call of its meaning. -/

namespace Sys2Proof.Machine

open Sys2Proof

/-- The effect of a command on everything but the queue of waiting commands. -/
def exec (i : Instr) (s : State) : Host.Outcome State Fault Refusal :=
  match i with
  | .hello p => Sys2Proof.Machine.execHello p s
  | .openSession p => Sys2Proof.Machine.execOpenSession p s
  | .close p => Sys2Proof.Machine.execClose p s
  | .ping p => Sys2Proof.Machine.execPing p s
  | .setTime p => Sys2Proof.Machine.execSetTime p s
  | .configLine p => Sys2Proof.Machine.execConfigLine p s
  | .readLineConfig p => Sys2Proof.Machine.execReadLineConfig p s
  | .readLines p => Sys2Proof.Machine.execReadLines p s
  | .readCounters p => Sys2Proof.Machine.execReadCounters p s
  | .defineSet p => Sys2Proof.Machine.execDefineSet p s
  | .armSet p => Sys2Proof.Machine.execArmSet p s
  | .disarmSet p => Sys2Proof.Machine.execDisarmSet p s
  | .deleteSet p => Sys2Proof.Machine.execDeleteSet p s
  | .readSet p => Sys2Proof.Machine.execReadSet p s
  | .ackSet p => Sys2Proof.Machine.execAckSet p s
  | .resyncSet p => Sys2Proof.Machine.execResyncSet p s
  | .adoptSet p => Sys2Proof.Machine.execAdoptSet p s
  | .ack p => Sys2Proof.Machine.execAck p s
  | .journalStatus p => Sys2Proof.Machine.execJournalStatus p s
  | .claimOutput p => Sys2Proof.Machine.execClaimOutput p s
  | .releaseOutput p => Sys2Proof.Machine.execReleaseOutput p s
  | .writeOutputs p => Sys2Proof.Machine.execWriteOutputs p s
  | .configOutput p => Sys2Proof.Machine.execConfigOutput p s
  | .readOutputs p => Sys2Proof.Machine.execReadOutputs p s
  | .restart p => Sys2Proof.Machine.execRestart p s
  | .reject p => Sys2Proof.Machine.execReject p s
  | .rawEdge l => Sys2Proof.Machine.execRawEdge l s
  | .settleExpiry l => Sys2Proof.Machine.execSettleExpiry l s
  | .debounceExpiry l => Sys2Proof.Machine.execDebounceExpiry l s
  | .chatterWindowExpiry l => Sys2Proof.Machine.execChatterWindowExpiry l s
  | .quietExpiry l => Sys2Proof.Machine.execQuietExpiry l s
  | .noticeBuild p => Sys2Proof.Machine.execNoticeBuild p s
  | .retransmitExpiry p => Sys2Proof.Machine.execRetransmitExpiry p s
  | .silenceExpiry p => Sys2Proof.Machine.execSilenceExpiry p s
  | .retainExpiry p => Sys2Proof.Machine.execRetainExpiry p s
  | .graceExpiry o => Sys2Proof.Machine.execGraceExpiry o s
  | .verifyExpiry o => Sys2Proof.Machine.execVerifyExpiry o s
  | .characterReceived p c stop => Sys2Proof.Machine.execCharacterReceived p c stop s
  | .gapExpiry p => Sys2Proof.Machine.execGapExpiry p s
  | .responseSend p => Sys2Proof.Machine.execResponseSend p s
  | .frameEnd p => Sys2Proof.Machine.execFrameEnd p s
  | .restartReset p period => Sys2Proof.Machine.execRestartReset p period s
  | .powerOn straps => Sys2Proof.Machine.execPowerOn straps s
  | .rstnLow => Sys2Proof.Machine.execRstnLow s
  | .rstnHigh straps => Sys2Proof.Machine.execRstnHigh straps s
  | .supplyDip => Sys2Proof.Machine.execSupplyDip s
  | .supplyDipEnd straps => Sys2Proof.Machine.execSupplyDipEnd straps s
  | .sample raw => Sys2Proof.Machine.execSample raw s
  | .lineReturnsToIdle p => Sys2Proof.Machine.execLineReturnsToIdle p s
  | .supplyBelowPowerOn => Sys2Proof.Machine.execSupplyBelowPowerOn s

end Sys2Proof.Machine
end

