-- ==== Sys2Proof/Machine/Step.lean ====
section
/-! DEFINITION. One step: the command at the front of the queue of waiting commands is taken. -/

namespace Sys2Proof.Machine

open Sys2Proof

/-- The command at the front of the queue takes place with the rest of the queue behind it; on an empty queue the part idles
(log 8). -/
def step (s : State) : Host.Outcome State Fault Refusal :=
  match s.pending with
  | [] => .next s
  | c :: rest => exec c { s with pending := rest }

/-- The command that a word spells is put at the front of the queue; no word spells one (log 18). -/
def State.withFetchWord (s : State) (nbits w : Nat) : State :=
  match decodeTableWord nbits w with
  | none => s
  | some c => { s with pending := c :: s.pending }

end Sys2Proof.Machine
end

