-- ==== Sys2Proof/Safety.lean ====
section
/-! DEFINITION. The terms in which claims about the part are made: which records a command may change, how a request is taken
and answered, and the invariants that a run keeps. -/

namespace Sys2Proof.Machine

open Sys2Proof

/-! ### What a command leaves as it was -/

/-- The groups of records of the state. -/
inductive Block where
  /-- the time count and the samples taken -/
  | clock
  /-- reset cause and count, the period in progress and its sources -/
  | reset
  | lines
  | sets
  | outputs
  | sessions
  | journals
  | engines
  | ports
  /-- the count of free orders used (log 6) -/
  | orders
  /-- the commands that wait -/
  | queue
  deriving DecidableEq, Repr

/-- The two states agree on a group of records. -/
def Block.same (s t : State) : Block → Prop
  | .clock => t.time = s.time ∧ t.now = s.now
  | .reset => t.resetCause = s.resetCause ∧ t.resetCount = s.resetCount ∧ t.resetPeriod = s.resetPeriod ∧
      t.rstnLow = s.rstnLow ∧ t.dipLow = s.dipLow ∧ t.powerLow = s.powerLow
  | .lines => t.lines = s.lines
  | .sets => t.sets = s.sets
  | .outputs => t.outputs = s.outputs
  | .sessions => t.sessions = s.sessions
  | .journals => t.journals = s.journals
  | .engines => t.engines = s.engines
  | .ports => t.ports = s.ports
  | .orders => t.choice = s.choice
  | .queue => t.pending = s.pending

/-- Going from s to t changes nothing outside the groups named. -/
def State.changesOnly (s : State) (named : List Block) (t : State) : Prop := ∀ b, b ∉ named → b.same s t

/-! ### Requests -/

/-- The command that takes a request of this kind on a port. -/
def ReqKind.command (p : Port) : ReqKind → Instr
  | .hello => .hello p
  | .openSession => .openSession p
  | .close => .close p
  | .ping => .ping p
  | .setTime => .setTime p
  | .configLine => .configLine p
  | .readLineConfig => .readLineConfig p
  | .readLines => .readLines p
  | .readCounters => .readCounters p
  | .defineSet => .defineSet p
  | .armSet => .armSet p
  | .disarmSet => .disarmSet p
  | .deleteSet => .deleteSet p
  | .readSet => .readSet p
  | .ackSet => .ackSet p
  | .resyncSet => .resyncSet p
  | .adoptSet => .adoptSet p
  | .ack => .ack p
  | .journalStatus => .journalStatus p
  | .claimOutput => .claimOutput p
  | .releaseOutput => .releaseOutput p
  | .configOutput => .configOutput p
  | .writeOutputs => .writeOutputs p
  | .readOutputs => .readOutputs p
  | .restart => .restart p

/-- The handler of the port can take the frame f: no reset is asserted, no RESTART is pending on the port, the response queue
has room, and f is the oldest frame of the request queue (R165, R153, R170). -/
abbrev State.takes (s : State) (p : Port) (f : Frame) : Prop :=
  s.resetPeriod = none ∧ (s.ports.at p).restartPending = false ∧ (s.ports.at p).responses.length < 4 ∧
    (s.ports.at p).requests.head? = some f

/-- The handler of the port can take the frame f, which is a request of kind k with this payload, and the port's session is
OPEN unless the kind is exempt (R165, R171 to R173). -/
abbrev State.serves (s : State) (p : Port) (k : ReqKind) (payload : List Byte) (f : Frame) : Prop :=
  s.takes p f ∧ f.kind = k.code ∧ f.payload = payload ∧ (k.needsSession = true → s.isOpen p = true)

/-- The frame f left the request queue, and a response of the given kind with the tag of f, the status, the receiver's two
items and the results joined the response queue; the two items are cleared; nothing else changed (R165, R167, R174). -/
def State.answeredAs (s : State) (p : Port) (f : Frame) (kind : Byte) (status : Status) (results : List Byte) : State :=
  let port := s.ports.at p
  { s with
    ports := s.ports.put p
      { port with
        requests := port.requests.tail
        responses := port.responses ++
          [{ kind := kind, tag := f.tag,
             payload := [status.byte, if port.overrun then 1 else 0, BitVec.ofNat 8 port.discarded] ++ results }]
        overrun := false
        discarded := 0 } }

/-- The same with the response kind of a request: its kind plus 0x80 (R173). -/
def State.answered (s : State) (p : Port) (f : Frame) (status : Status) (results : List Byte) : State :=
  s.answeredAs p f (f.kind + 0x80) status results

/-- The payload of an OPEN with these arguments (R176). -/
def openPayload (tag keepalive window timeout limit retain replace : Nat) : List Byte :=
  leBytes 2 tag ++ leBytes 2 keepalive ++ [byteOf window] ++ leBytes 2 timeout ++ [byteOf limit] ++ leBytes 2 retain ++
    [byteOf replace]

/-- The parameters of an OPEN lie in the ranges of R96. -/
abbrev Params.inRange (prm : Params) : Prop :=
  1 ≤ prm.tag.toNat ∧ 100 ≤ prm.keepalive ∧ prm.keepalive ≤ 60000 ∧ 1 ≤ prm.window ∧ prm.window ≤ 32 ∧
    20 ≤ prm.retryTimeout ∧ prm.retryTimeout ≤ 5000 ∧ 1 ≤ prm.retryLimit ∧ prm.retryLimit ≤ 15 ∧ prm.retain ≤ 600

/-- The payload of the OPEN that gives these parameters. -/
def Params.payload (prm : Params) (replace : Bool) : List Byte :=
  openPayload prm.tag.toNat prm.keepalive prm.window prm.retryTimeout prm.retryLimit prm.retain replace.toNat

/-- The fields of a configuration lie in the ranges of R18. -/
abbrev LineConfig.inRange (c : LineConfig) : Prop :=
  c.debounce ≤ 250 ∧ c.chatterLimit ≤ 63 ∧ 10 ≤ c.chatterWindow ∧ c.chatterWindow ≤ 10000

/-- The payload of a CONFIG_LINE over a line mask (R176). -/
def configPayload (named : LineId → Bool) (enable invert debounce limit window counted : Nat) : List Byte :=
  maskBytes 8 64 named ++ [byteOf enable, byteOf invert, byteOf debounce, byteOf limit] ++ leBytes 2 window ++ [byteOf counted]

/-- The lines that a predicate names, in ascending order. -/
def linesNamed (named : LineId → Bool) : List LineId := (List.finRange 64).filter fun l => named l

/-- The line is a member of a set that is ARMED or STALE (R18). -/
def State.watches (s : State) (l : LineId) : Prop :=
  ∃ w ws, s.sets.at w = some ws ∧ ws.phase ≠ .idle ∧ l ∈ ws.members

/-! ### Outputs and sessions -/

/-- The output after a change of its fields: if the driven level is not what it was, verification starts anew, WAITING for the
next sample, or OFF with verify enable off (R128, R138). -/
def Output.reverified (before after : Output) : Output :=
  if after.driven = before.driven then after
  else { after with verify := if after.verifyEnable then .waiting none else .off }

/-- The output becomes FREE: no owner, fault latched 0, its safe level driven (R131, R134). -/
def Output.freed (o : Output) : Output := o.reverified { o with state := .free, fault := false }

/-- Everything session p owns is released: its sets are FREE, its outputs FREE, its journal empty, its record at the reset
values, its retransmit timer stopped and its go-back mark clear (R107, R72). -/
def State.tornDown (s : State) (p : Port) : State :=
  { s with
    sets := s.sets.update fun _ ws => ws.filter fun x => decide (x.owner ≠ p)
    outputs := s.outputs.update fun _ o => if o.state.owner = some p then o.freed else o
    sessions := s.sessions.put p { state := .closed, loss := false, lostSets := [], lostOutputs := [] }
    journals := s.journals.put p { inflight := [], unsent := [] }
    engines := s.engines.put p { s.engines.at p with retransmit := none, goBack := none } }

/-- A fresh open (R98, R72): three times the keepalive, at four samples a millisecond, until the silence expiry. -/
def State.freshlyOpened (s : State) (p : Port) (prm : Params) : State :=
  { s with
    sessions := s.sessions.put p
      { state := .opened prm (s.now + 4 * (3 * prm.keepalive)), loss := false, lostSets := [], lostOutputs := [] }
    journals := s.journals.put p { inflight := [], unsent := [] }
    engines := s.engines.put p
      { nextSeq := 1, retryCount := 0, retransmit := none, goBack := none, noticeNumber := 0, statusChanged := false } }

/-- A lapse of the OPEN session p with parameters prm: LAPSED with the retain timer running, the retransmit timer stopped, its
OWNED outputs in GRACE or SAFE_HELD; torn down instead when retain is 0 (R105, R106, R130, R73). -/
def State.lapsedFrom (s : State) (p : Port) (prm : Params) (why : LapseReason) : State :=
  if prm.retain = 0 then s.tornDown p
  else
    { s with
      sessions := s.sessions.put p { s.sessions.at p with state := .lapsed prm why (s.now + 4 * (1000 * prm.retain)) }
      engines := s.engines.put p { s.engines.at p with retransmit := none }
      outputs := s.outputs.update fun _ o =>
        if o.state = .owned p then
          o.reverified { o with state := if o.grace = 0 then .safeHeld p else .grace p (s.now + 4 * o.grace) }
        else o }

/-! ### Lines -/

/-- No ARMED set has the line as a member. -/
def State.unfollowed (s : State) (l : LineId) : Prop :=
  ∀ w ws, s.sets.at w = some ws → ws.phase = .armed → l ∉ ws.members

/-- The set w, with record ws, is ARMED, has the line as a member, and is the only ARMED set that has. -/
def State.followedBy (s : State) (l : LineId) (w : SetId) (ws : WatchSet) : Prop :=
  s.sets.at w = some ws ∧ ws.phase = .armed ∧ l ∈ ws.members ∧
    ∀ v vs, s.sets.at v = some vs → vs.phase = .armed → l ∈ vs.members → v = w

/-- The record of the line once it has taken a sample that leaves it in this state. -/
def LineRec.left (r : LineRec) (x : Bool) (state : LineState) : LineRec :=
  { r with state := state, lastRaw := some x, waiting := none }

/-- A debounced change away from d is due at the waiting sample x and passes the chatter check (R8); the window timer, if it
ran, has not come to its expiry, or the count below is 0 (R9). -/
abbrev LineRec.changeDue (r : LineRec) (now : Nat) (d : Bool) (stamp : Time) (expiry : Nat) (x : Bool) : Prop :=
  r.waiting = some x ∧ r.state = .pending d stamp expiry ∧ expiry ≤ now ∧ (x ^^ r.config.invert) = !d ∧
    (r.config.chatterLimit = 0 ∨ (r.expireWindow now).chatterCount + 1 ≤ r.config.chatterLimit)

/-- The record of the line once that change is applied (R8, R9, R16). -/
def LineRec.changed (r : LineRec) (now : Nat) (d : Bool) (x : Bool) : LineRec :=
  let r1 := r.expireWindow now
  { r1 with
    state := .stable (!d)
    lastRaw := some x
    waiting := none
    edges := countEdge r.config.counted (!d) r.edges
    chatterCount := if r.config.chatterLimit = 0 then r1.chatterCount else r1.chatterCount + 1
    windowTimer :=
      if r.config.chatterLimit ≠ 0 ∧ r1.chatterCount = 0 then some (now + 4 * r.config.chatterWindow) else r1.windowTimer }

/-- The record of the line once a due change away from d fails the chatter check: D is frozen, the quiet timer runs and the
window timer is stopped (R8, R10). -/
def LineRec.frozen (r : LineRec) (now : Nat) (d : Bool) (x : Bool) : LineRec :=
  let r1 := r.expireWindow now
  { r1.left x (.chatter d (now + 4 * r1.config.chatterWindow)) with windowTimer := none }

/-- The record of the line once its chatter from the frozen level d has ended (R12, R16). -/
def LineRec.calmed (r : LineRec) (now : Nat) (d : Bool) (x : Bool) : LineRec :=
  let r1 := r.expireWindow now
  let level := x ^^ r1.config.invert
  { r1.left x (.stable level) with
    chatterCount := 0
    edges := if level = d then r1.edges else countEdge r1.config.counted level r1.edges }

/-- The command c makes the line l raise the debounced event e, and the line is left with the record after. DEBOUNCE_EXPIRY, and
RAW_EDGE with debounce 0, make a change due, which is applied or freezes the line; QUIET_EXPIRY ends a chatter (R6, R8, R10,
R12, R15). -/
def State.raises (s : State) (l : LineId) (c : Instr) (e : LineEvent) (after : LineRec) : Prop :=
  s.resetPeriod = none ∧ ∃ x, (s.lines.at l).waiting = some x ∧
    let r := (s.lines.at l).expireWindow s.now
    let level := x ^^ r.config.invert
    let passes := r.config.chatterLimit = 0 ∨ r.chatterCount + 1 ≤ r.config.chatterLimit
    ((∃ d stamp,
        ((c = .debounceExpiry l ∧ ∃ expiry, r.state = .pending d stamp expiry ∧ expiry ≤ s.now) ∨
          (c = .rawEdge l ∧ r.state = .stable d ∧ r.config.debounce = 0 ∧ r.lastRaw = some (!x) ∧ stamp = s.time)) ∧
        level = !d ∧
        ((passes ∧ e = .change (!d) stamp ∧ after = (s.lines.at l).changed s.now d x) ∨
          (¬ passes ∧ e = .chatterStart d s.time ∧ after = (s.lines.at l).frozen s.now d x))) ∨
      ∃ d quiet, c = .quietExpiry l ∧ r.state = .chatter d quiet ∧ quiet ≤ s.now ∧ r.lastRaw ≠ some (!x) ∧
        e = .chatterEnd level s.time (decide (level ≠ d)) ∧ after = (s.lines.at l).calmed s.now d x)

/-- The state t after a raw sample of all lines in s: one more sample is taken, the time count rises at every fourth, a verify
timer starts where a wait has begun, a sample that is an event of a line waits for the line to take it, and any other is the
line's last raw sample, the first of INIT starting its settle timer (R3, R4, R5, R138, R145; log 4). -/
def State.sampledTo (s : State) (raw : BitVec 64) (t : State) : Prop :=
  t.now = s.now + 1 ∧ t.time = (if (s.now + 1) % 4 = 0 then s.time + 1 else s.time) ∧
    s.changesOnly [.clock, .lines, .outputs] t ∧
    (∀ o, t.outputs.at o = match (s.outputs.at o).verify with
      | .waiting none => { s.outputs.at o with verify := .waiting (some (s.now + 1 + 4 * (s.outputs.at o).verifyTime)) }
      | .waiting (some _) | .off | .deferred | .ok | .unverified => s.outputs.at o) ∧
    ∀ l,
      let r := s.lines.at l
      let x := raw.getLsbD l.val
      let edge := r.lastRaw = some (!x)
      let windowOver := ∃ e, r.windowTimer = some e ∧ e ≤ s.now + 1
      let event := windowOver ∨ match r.state with
        | .disabled _ => False
        | .init settle => edge ∨ r.config.debounce = 0 ∨ ∃ e, settle = some e ∧ e ≤ s.now + 1
        | .stable d => (x ^^ r.config.invert) ≠ d
        | .pending d _ expiry => (x ^^ r.config.invert) = d ∨ expiry ≤ s.now + 1
        | .chatter _ quiet => edge ∨ quiet ≤ s.now + 1
      (event → t.lines.at l = { r with waiting := some x }) ∧
      (¬ event → t.lines.at l = r.left x (match r.state with
        | .init none => .init (some (s.now + 1 + 4 * r.config.debounce))
        | .init (some e) => .init (some e)
        | .disabled d => .disabled d
        | .stable d => .stable d
        | .pending d stamp expiry => .pending d stamp expiry
        | .chatter d quiet => .chatter d quiet))

/-! ### What sets and outputs do with an event -/

/-- The line whose level a record tells, if it tells one line's. -/
def RecBody.line? : RecBody → Option LineId
  | .change _ l _ _ => some l
  | .chatterStart _ l _ => some l
  | .chatterEnd _ l _ => some l
  | .resyncMark _ _ => none
  | .outputFault _ _ _ => none
  | .timeMark _ _ => none
  | .void _ => none

/-- The state t in which the record r, asked for by the set w with record ws, has joined the end of the journal of the set's
owner, or, where there is no room for it, the set is STALE (OVERRUN) and its owner's status-changed mark raised, the journal
as it was (R27, R30, R31, R48, R60). -/
def State.recordAsked (s : State) (w : SetId) (ws : WatchSet) (r : Rec) (t : State) : Prop :=
  let p := ws.owner
  let j := s.journals.at p
  let room := j.holding < 64 ∨ (j.holding < 192 ∧ (j.holding - 64) + ((s.journals.at p.other).holding - 64) < 128)
  (room → t = { s with journals := s.journals.put p { j with unsent := j.unsent ++ [r] } }) ∧
  (¬ room → t = { s with
    sets := s.sets.put w (some { ws with phase := .stale .overrun })
    engines := s.engines.put p { s.engines.at p with statusChanged := true } })

/-- The state t in which the LATEST set w, with record ws, has taken a change of the line l to a level. The UNSENT CHANGE record
of the set and line takes the level and the last stamp, its fold count rises up to 255, its own stamp stays. With no record of
its set and line and no TIME_MARK behind it, it keeps its place; otherwise it moves to the end, and its stamp shifts by new
less old of every TIME_MARK it passes. Without such a record a new one is asked for (R28, R29, R52, R56). -/
def State.changeAbsorbed (s : State) (w : SetId) (ws : WatchSet) (l : LineId) (level : Bool) (stamp : Time) (t : State) :
    Prop :=
  let j := s.journals.at ws.owner
  let written (unsent : List Rec) : State := { s with journals := s.journals.put ws.owner { j with unsent := unsent } }
  let other (r : Rec) : Prop := ∀ v folded, r.body ≠ .change w l v folded
  let step (r : Rec) : Time := match r.body with
    | .timeMark old new => new - old
    | .change _ _ _ _ | .chatterStart _ _ _ | .chatterEnd _ _ _ | .resyncMark _ _ | .outputFault _ _ _ | .void _ => 0
  (∀ before behind first v folded, j.unsent = before ++ { stamp := first, body := .change w l v folded } :: behind →
    (∀ r ∈ before, other r) →
    let count := match folded with
      | none => 1
      | some (n, _) => min 255 (n + 1)
    let body := RecBody.change w l level (some (count, stamp))
    let blocked := ∃ r ∈ behind, (r.body.set? = some w ∧ r.body.line? = some l) ∨ ∃ old new, r.body = .timeMark old new
    (¬ blocked → t = written (before ++ { stamp := first, body := body } :: behind)) ∧
    (blocked → t = written (before ++ behind ++ [{ stamp := first + (behind.map step).sum, body := body }]))) ∧
  ((∀ r ∈ j.unsent, other r) → s.recordAsked w ws { stamp := stamp, body := .change w l level none } t)

/-- The set w, with record ws, has its attention flag set, and its owner's status-changed mark is raised (R32). -/
def State.attended (s : State) (w : SetId) (ws : WatchSet) : State :=
  { s with
    sets := s.sets.put w (some { ws with attention := true })
    engines := s.engines.put ws.owner { s.engines.at ws.owner with statusChanged := true } }

/-- The verdict on the level d of the readback line of output o: OK where it is the driven level; otherwise a fault: fault
latched is 1 and the output UNVERIFIED, and, where fault latched was 0 and the output is owned, an OUTPUT_FAULT record joins
the end of the owner's journal, or, without room, its loss flag is set (R139 to R141, R143, R48, R61). -/
def State.judged (s : State) (o : OutId) (d : Bool) : State :=
  let r := s.outputs.at o
  if d = r.driven then { s with outputs := s.outputs.put o { r with verify := .ok } }
  else
    let latched : State := { s with outputs := s.outputs.put o { r with verify := .unverified, fault := true } }
    match r.fault, r.state.owner with
    | true, _ => latched
    | false, none => latched
    | false, some p =>
      let j := s.journals.at p
      if j.holding < 64 ∨ (j.holding < 192 ∧ (j.holding - 64) + ((s.journals.at p.other).holding - 64) < 128) then
        { latched with
          journals := s.journals.put p
            { j with unsent := j.unsent ++ [{ stamp := s.time, body := .outputFault o r.driven d }] } }
      else
        { latched with
          sessions := s.sessions.put p { s.sessions.at p with loss := true }
          engines := s.engines.put p
            { s.engines.at p with statusChanged := (s.engines.at p).statusChanged || !(s.sessions.at p).loss } }

/-- The verification of output o stops with no verdict: UNVERIFIED, fault latched as it was (R139, R140, R141). -/
def State.unjudged (s : State) (o : OutId) : State :=
  { s with outputs := s.outputs.put o { s.outputs.at o with verify := .unverified } }

/-- What an event of its readback line makes of output o, by its verify state: a verdict on the level, UNVERIFIED without one, or
nothing (R140 to R142). -/
def State.readbackTold (s : State) (o : OutId) (e : LineEvent) : State :=
  match (s.outputs.at o).verify, e with
  | .off, _ => s
  | .waiting _, _ => s
  | .deferred, .change d _ => s.judged o d
  | .deferred, .chatterStart _ _ => s.unjudged o
  | .deferred, .chatterEnd _ _ _ => s
  | .ok, .change d _ => s.judged o d
  | .ok, .chatterStart _ _ => s.unjudged o
  | .ok, .chatterEnd _ _ _ => s
  | .unverified, .change d _ => s.judged o d
  | .unverified, .chatterStart _ _ => s
  | .unverified, .chatterEnd d _ _ => s.judged o d

/-- The commands by which a reset source acts on the part; a RESTART's own reset is not among them, since it comes from a
running part (R149 to R151, R154). -/
def isResetSource : Instr → Bool
  | .powerOn _ | .rstnLow | .rstnHigh _ | .supplyDip | .supplyDipEnd _ | .supplyBelowPowerOn => true
  | .hello _ | .openSession _ | .close _ | .ping _ | .setTime _ | .configLine _ | .readLineConfig _ | .readLines _
  | .readCounters _ | .defineSet _ | .armSet _ | .disarmSet _ | .deleteSet _ | .readSet _ | .ackSet _ | .resyncSet _
  | .adoptSet _ | .ack _ | .journalStatus _ | .claimOutput _ | .releaseOutput _ | .writeOutputs _ | .configOutput _
  | .readOutputs _ | .restart _ | .reject _ | .rawEdge _ | .settleExpiry _ | .debounceExpiry _ | .chatterWindowExpiry _
  | .quietExpiry _ | .noticeBuild _ | .retransmitExpiry _ | .silenceExpiry _ | .retainExpiry _ | .graceExpiry _
  | .verifyExpiry _ | .characterReceived _ _ _ | .gapExpiry _ | .responseSend _ | .frameEnd _ | .restartReset _ _
  | .sample _ | .lineReturnsToIdle _ => false

/-! ### The values after a reset -/

/-- Every block has the value that its chapter gives it after every reset; the ports are at the rates given (R1, R2, R23, R47,
R71, R93, R127, R145, R156, R170). -/
def State.atResetValues (s : State) (rateA rateB : BitRate) : Prop :=
  s.time = 0 ∧
    (∀ l, s.lines.at l =
      { config := { enable := true, invert := false, debounce := 10, chatterLimit := 0, chatterWindow := 1000, counted := .both }
        state := .init none, lastRaw := none, waiting := none, chatterCount := 0, windowTimer := none, edges := 0 }) ∧
    (∀ w, s.sets.at w = none) ∧
    (∀ o, s.outputs.at o =
      { state := .free, latch := false, safe := false, grace := 0, verifyEnable := true, verifyTime := 20, verify := .off,
        fault := false }) ∧
    (∀ p, s.sessions.at p = { state := .closed, loss := false, lostSets := [], lostOutputs := [] } ∧
      s.journals.at p = { inflight := [], unsent := [] } ∧
      s.engines.at p =
        { nextSeq := 1, retryCount := 0, retransmit := none, goBack := none, noticeNumber := 0, statusChanged := false }) ∧
    (∀ p, s.ports.at p =
      { bitRate := match p with
          | .A => rateA
          | .B => rateB
        receiver := .hunt, awaitIdle := true, requests := [], responses := [], sending := none, discarded := 0,
        overrun := false, restartPending := false })

/-! ### Invariants -/

/-- A session holds at most 192 records, and the two hold at most 128 beyond their reserves of 64 (R47, R48). -/
def State.poolKept (s : State) : Prop :=
  (∀ p, (s.journals.at p).holding ≤ 192) ∧
    ((s.journals.at .A).holding - 64) + ((s.journals.at .B).holding - 64) ≤ 128

/-- Each queue of a port holds at most 4 frames (R168). -/
def State.queuesKept (s : State) : Prop :=
  ∀ p, (s.ports.at p).requests.length ≤ 4 ∧ (s.ports.at p).responses.length ≤ 4

/-- While a reset is asserted every block is at its reset value and every output pin drives 0 (R150, R170). -/
def State.heldInReset (s : State) : Prop :=
  s.resetPeriod ≠ none → ∃ rateA rateB, s.atResetValues rateA rateB ∧ s.now = 0

/-- The most records a session may have INFLIGHT: its window, and 0 when it is CLOSED (R75). -/
def SessState.window : SessState → Nat
  | .closed => 0
  | .opened prm _ => prm.window
  | .lapsed prm _ _ => prm.window

/-- The INFLIGHT records of each session carry consecutive numbers through L, they are never more than its window, and a set
go-back mark names one of them (R74, R75, R84, R96). -/
def State.numbered (s : State) : Prop :=
  ∀ p, (s.journals.at p).inflight.map Sent.seq =
      (List.range (s.journals.at p).inflight.length).map (fun i =>
        (s.engines.at p).nextSeq - BitVec.ofNat 16 ((s.journals.at p).inflight.length - i)) ∧
    (s.journals.at p).inflight.length ≤ (s.sessions.at p).state.window ∧
    (s.sessions.at p).state.window ≤ 32 ∧
    ∀ r, (s.engines.at p).goBack = some r → r ∈ (s.journals.at p).inflight.map Sent.seq

/-- Ownership: every set that is not FREE is owned by a session that is OPEN or LAPSED; an OWNED output has an OPEN owner, one
in GRACE a LAPSED owner, one in SAFE_HELD an owner that is not CLOSED; a CLOSED session owns no record, its loss flag is clear
and its lost lists are empty (R24, R94, R107, R129). -/
def State.owned (s : State) : Prop :=
  (∀ w ws, s.sets.at w = some ws → (s.sessions.at ws.owner).state ≠ .closed) ∧
    (∀ o, match (s.outputs.at o).state with
      | .free => True
      | .owned p => s.isOpen p = true
      | .grace p _ => s.isLapsed p = true
      | .safeHeld p => (s.sessions.at p).state ≠ .closed) ∧
    (∀ p, (s.sessions.at p).state = .closed →
      s.journals.at p = Journal.empty ∧ s.sessions.at p = { state := .closed, loss := false, lostSets := [], lostOutputs := [] })

/-- The lost lists are ascending without duplicates, and a session that is not LAPSED has them empty (R93, R110). -/
def State.lostListed (s : State) : Prop :=
  ∀ p, (s.sessions.at p).lostSets.Pairwise (· < ·) ∧ (s.sessions.at p).lostOutputs.Pairwise (· < ·) ∧
    (s.isLapsed p = false → (s.sessions.at p).lostSets = [] ∧ (s.sessions.at p).lostOutputs = [])

/-- A set record is as R23 has it: its members are ascending and at least one, its snapshot has one level for each of them, it
is present in ARMED and STALE, attention is set only in SUMMARY mode, and every member of an ARMED or STALE set has a known D
(R23, R18, R37). -/
def WatchSet.sound (level : LineId → Option Bool) (ws : WatchSet) : Prop :=
  ws.members ≠ [] ∧ ws.members.Pairwise (· < ·) ∧
    (∀ snap, ws.snapshot = some snap → snap.length = ws.members.length) ∧
    (ws.attention = true → ws.mode = .summary) ∧
    (ws.inUse = true → ws.snapshot ≠ none ∧ ∀ l ∈ ws.members, level l ≠ none)

/-- The record is a VOID record. -/
def RecBody.isVoid : RecBody → Bool
  | .void _ => true
  | .change _ _ _ _ | .chatterStart _ _ _ | .chatterEnd _ _ _ | .resyncMark _ _ | .outputFault _ _ _ | .timeMark _ _ => false

/-- The number of levels a RESYNC_MARK carries. -/
def RecBody.levels? : RecBody → Option Nat
  | .resyncMark _ levels => some levels.length
  | .change _ _ _ _ | .chatterStart _ _ _ | .chatterEnd _ _ _ | .outputFault _ _ _ | .timeMark _ _ | .void _ => none

/-- A record of session p that is bound to a set and not VOID belongs to a record-mode set that p owns in ARMED or STALE, tells
of one of its members, and, as a mark, has one level for each of them (R26, R54, R57, R88). -/
def State.recordSound (s : State) (p : Port) (r : Rec) : Prop :=
  ∀ w, r.body.set? = some w → r.body.isVoid = false →
    ∃ ws, s.sets.at w = some ws ∧ ws.owner = p ∧ ws.inUse = true ∧ ws.mode ≠ .summary ∧
      (∀ l, r.body.line? = some l → l ∈ ws.members) ∧ ∀ n, r.body.levels? = some n → n = ws.members.length

/-- The sets and the journals fit each other: every set is sound, every record is, no UNSENT record is VOID, and no UNSENT
record of a set stands in front of an UNSENT RESYNC_MARK of it (R23, R43, R51, R57). -/
def State.fitted (s : State) : Prop :=
  (∀ w ws, s.sets.at w = some ws → ws.sound s.level) ∧
    (∀ p, ∀ r ∈ (s.journals.at p).records, s.recordSound p r) ∧
    ∀ p, (∀ r ∈ (s.journals.at p).unsent, r.body.isVoid = false) ∧
      (s.journals.at p).unsent.Pairwise fun a b => ∀ w, b.body.levels? ≠ none → b.body.set? = some w → a.body.set? ≠ some w

/-- The set's journal records applied in journal order to its snapshot (R33). -/
def State.replayed (s : State) (w : SetId) (ws : WatchSet) : Option (List Bool) :=
  ((s.journals.at ws.owner).records.filter (Rec.ofSet w)).foldl (fun snap r => r.body.fold ws.members snap) ws.snapshot

/-- The snapshot law: for every ARMED set in EACH or LATEST mode the records of its journal, applied in order to its snapshot,
give exactly the debounced levels of its members (R33). -/
def State.snapshotLaw (s : State) : Prop :=
  ∀ w ws, s.sets.at w = some ws → ws.phase = .armed → ws.mode ≠ .summary →
    (s.replayed w ws).map (List.map some) = some (ws.members.map s.level)

end Sys2Proof.Machine
end

