-- ==== Sys2Proof/Certificates/Slice0/Obligations.lean ====
section
/-! DEFINITION. The statements for the provers: what the commands of the part do, and the invariants that its steps keep. Each
docstring names the rules of the spec it rests on; where a statement rests on a choice of the model, it names the log entry. -/

open Sys2Proof Sys2Proof.Machine

/-! ### Steps, the queue and reset -/

/-- A step runs the command at the front of the queue on the state with the queue's rest, and on an empty queue the
part idles (both the model's form, logs 1 and 8). -/
def Obligations.StepRunsTheFrontCommand : Prop :=
  (∀ (c : Instr) (s : State), step { s with pending := c :: s.pending } = exec c s) ∧
  (∀ s : State, s.pending = [] → step s = .next s)

/-- State.reset holds every reset value of the chapters, no reset is in progress and no command waits (R1, R2, R23,
R47, R71, R93, R127, R145, R156, R170). Reset cause, count and bit rates, which the spec gives no reset value, are
the model's choice (log 10). -/
def Obligations.ResetGivesTheStatedValues : Prop :=
  State.reset.atResetValues .r115200 .r115200 ∧ State.reset.resetPeriod = none ∧ State.reset.rstnLow = false ∧
    State.reset.dipLow = false ∧ State.reset.powerLow = false ∧ State.reset.resetCause = .powerOn ∧
    State.reset.resetCount = 0 ∧ State.reset.now = 0 ∧ State.reset.pending = []

/-- While a reset is asserted nothing but a reset source changes anything (R150, R170; log 9). -/
def Obligations.NothingHappensWhileResetIsAsserted : Prop :=
  ∀ (c : Instr) (s : State), s.resetPeriod ≠ none → isResetSource c = false → exec c s = .next s

/-- RSTN_LOW, SUPPLY_DIP and SUPPLY_BELOW_POWER_ON_THRESHOLD assert reset: every block takes its reset values at
once, the period keeps the cause that began it unless a power-on joins, and cause and count stay (R149, R150, R151,
R155; at once: log 9). -/
def Obligations.SourcesAssertReset : Prop :=
  ∀ s : State,
    (∃ t, exec .rstnLow s = .next t ∧ t.atResetValues s.ports.a.bitRate s.ports.b.bitRate ∧
      t.resetPeriod = some (s.resetPeriod.getD .pin) ∧ t.rstnLow = true ∧ t.dipLow = s.dipLow ∧ t.powerLow = s.powerLow ∧
      t.resetCause = s.resetCause ∧ t.resetCount = s.resetCount ∧ t.pending = s.pending) ∧
    (∃ t, exec .supplyDip s = .next t ∧ t.atResetValues s.ports.a.bitRate s.ports.b.bitRate ∧
      t.resetPeriod = some (s.resetPeriod.getD .supplyDip) ∧ t.rstnLow = s.rstnLow ∧ t.dipLow = true ∧
      t.powerLow = s.powerLow ∧ t.resetCause = s.resetCause ∧ t.resetCount = s.resetCount ∧ t.pending = s.pending) ∧
    ∃ t, exec .supplyBelowPowerOn s = .next t ∧ t.atResetValues s.ports.a.bitRate s.ports.b.bitRate ∧
      t.resetPeriod = some .powerOn ∧ t.rstnLow = s.rstnLow ∧ t.dipLow = s.dipLow ∧ t.powerLow = true ∧
      t.resetCause = s.resetCause ∧ t.resetCount = s.resetCount ∧ t.pending = s.pending

/-- RSTN_HIGH, SUPPLY_DIP_END, POWER_ON and RESTART_RESET end a reset period when no source asserts reset any longer:
the cause and the count are written (0 for a power-on, one more up to 255 for the others), the straps give the bit
rates and every block has its reset values (R149, R150, R151, R154, R156, R157; what ends a power-on: log 12). While
another source still asserts reset, the end of one only takes that source away (R149, R150, R151; log 12). A
RESTART_RESET that RSTn or a dip joins begins one period with the RESTART's cause, which goes on until that source
ends it (R149, R154; log 23). -/
def Obligations.ResetPeriodsEnd : Prop :=
  (∀ (s : State) (x : Straps) (cause : ResetCause),
     let ends (t : State) : Prop :=
       t.atResetValues (strapRate x.a1 x.a0) (strapRate x.b1 x.b0) ∧ t.resetPeriod = none ∧ t.resetCause = cause ∧
         t.resetCount = (if cause = .powerOn then 0 else min 255 (s.resetCount + 1)) ∧ t.rstnLow = false ∧ t.dipLow = false ∧
         t.powerLow = false ∧ t.pending = s.pending
     (s.resetPeriod = some cause → s.dipLow = false → s.powerLow = false → ∃ t, exec (.rstnHigh x) s = .next t ∧ ends t) ∧
     (s.resetPeriod = some cause → s.rstnLow = false → ∃ t, exec (.supplyDipEnd x) s = .next t ∧ ends t) ∧
     (cause = .powerOn → s.rstnLow = false → s.dipLow = false → ∃ t, exec (.powerOn x) s = .next t ∧ ends t) ∧
     (cause = .restart → s.resetPeriod = none → s.rstnLow = false → s.dipLow = false → s.powerLow = false →
       ∀ p f, (s.ports.at p).restartPending = true → (s.ports.at p).sending = some f → f.kind = 0x9F →
         f.payload.head? = some 0 → ∃ t, exec (.restartReset p (.own x)) s = .next t ∧ ends t)) ∧
  (∀ (s : State) (x : Straps), s.resetPeriod ≠ none →
     (s.dipLow = true ∨ s.powerLow = true → exec (.rstnHigh x) s = .next { s with rstnLow := false }) ∧
     (s.rstnLow = true → exec (.supplyDipEnd x) s = .next { s with dipLow := false, powerLow := false })) ∧
  (∀ (p : Port) (s : State) (f : Frame), s.resetPeriod = none → (s.ports.at p).restartPending = true →
     (s.ports.at p).sending = some f → f.kind = 0x9F → f.payload.head? = some 0 →
     let begins (t : State) : Prop :=
       t.atResetValues s.ports.a.bitRate s.ports.b.bitRate ∧ t.resetPeriod = some .restart ∧ t.powerLow = s.powerLow ∧
         t.resetCause = s.resetCause ∧ t.resetCount = s.resetCount ∧ t.pending = s.pending
     (∃ t, exec (.restartReset p .withPin) s = .next t ∧ begins t ∧ t.rstnLow = true ∧ t.dipLow = s.dipLow) ∧
     ∃ t, exec (.restartReset p .withDip) s = .next t ∧ begins t ∧ t.rstnLow = s.rstnLow ∧ t.dipLow = true)

/-! ### Taking a request -/

/-- A frame of a request kind with the wrong payload length is answered with BAD_REQUEST and changes nothing,
whatever the session (R172). A request of the right length on a port whose session is not OPEN is answered with
NO_SESSION and changes nothing, but for HELLO and OPEN (R95, R173). -/
def Obligations.TheFirstChecksOfARequest : Prop :=
  (∀ (k : ReqKind) (p : Port) (s : State) (f : Frame), s.takes p f → f.kind = k.code → f.payload.length ≠ k.length →
     exec (k.command p) s = .next (s.answered p f .badRequest [])) ∧
  (∀ (k : ReqKind) (p : Port) (s : State) (f : Frame), s.takes p f → f.kind = k.code → f.payload.length = k.length →
     k ≠ .hello → k ≠ .openSession → s.isOpen p = false →
     exec (k.command p) s = .next (s.answered p f .noSession []))

/-- A frame whose KIND is no request kind is answered with a reject of KIND 0xFF and BAD_REQUEST and changes nothing,
whatever its payload and the session (R171). With the request queue empty, the response queue full or a RESTART
pending on the port, its handler takes nothing (R165, R153); that a command which takes nothing leaves the state as it
is, is the model's form (log 1). -/
def Obligations.UnknownKindsAreRejected : Prop :=
  (∀ (p : Port) (s : State) (f : Frame), s.takes p f → (∀ k : ReqKind, f.kind ≠ k.code) →
     exec (.reject p) s = .next (s.answeredAs p f 0xFF .badRequest [])) ∧
  (∀ (k : ReqKind) (p : Port) (s : State),
     (s.ports.at p).requests = [] ∨ 4 ≤ (s.ports.at p).responses.length ∨ (s.ports.at p).restartPending = true →
     exec (k.command p) s = .next s ∧ exec (.reject p) s = .next s)

/-- The kind codes and the one payload length of each request (R176), the status codes (R174), and the codes of the
reset causes (R148, R175). The two straps of a port select its bit rate (R157). -/
def Obligations.TheCodesAreThoseOfTheTables : Prop :=
  (([ReqKind.hello, .openSession, .close, .ping, .setTime, .configLine, .readLineConfig, .readLines, .readCounters, .defineSet,
       .armSet, .disarmSet, .deleteSet, .readSet, .ackSet, .resyncSet, .adoptSet, .ack, .journalStatus, .claimOutput,
       .releaseOutput, .configOutput, .writeOutputs, .readOutputs, .restart].map fun k => (k.code.toNat, k.length)) =
     [(0x01, 0), (0x02, 11), (0x03, 0), (0x04, 0), (0x05, 4), (0x08, 15), (0x09, 2), (0x0A, 0), (0x0B, 3), (0x10, 10),
       (0x11, 1), (0x12, 1), (0x13, 1), (0x14, 1), (0x15, 1), (0x16, 1), (0x17, 1), (0x18, 2), (0x19, 1), (0x1A, 3),
       (0x1B, 2), (0x1C, 6), (0x1D, 4), (0x1E, 2), (0x1F, 1)] ∧
   ([Status.ok, .badRequest, .noSession, .badArg, .notOwner, .wrongState, .inUse, .conflict, .noRoom, .badAck,
       .sessionActive].map fun st => st.byte.toNat) = [0, 1, 2, 3, 4, 5, 6, 7, 8, 9, 10] ∧
   ([ResetCause.powerOn, .pin, .restart, .supplyDip].map fun c => c.byte.toNat) = [0, 1, 2, 3]) ∧
  (strapRate false false = .r115200 ∧ strapRate false true = .r230400 ∧ strapRate true false = .r460800 ∧
     strapRate true true = .r921600)

/-! ### Sessions and the Timebase -/

/-- HELLO is answered whatever the session, with the identity, the reset cause and count, both sessions and the
number of lines in INIT, and changes nothing (R148, R177). -/
def Obligations.HelloReportsThePart : Prop :=
  ∀ (p : Port) (s : State) (f : Frame), s.serves p .hello [] f →
    let session (q : Port) : List Byte := match (s.sessions.at q).state with
      | .closed => [0, 0, 0, 0]
      | .opened prm _ => [1] ++ leBytes 2 prm.tag.toNat ++ [0]
      | .lapsed prm .silence _ => [2] ++ leBytes 2 prm.tag.toNat ++ [1]
      | .lapsed prm .retry _ => [2] ++ leBytes 2 prm.tag.toNat ++ [2]
    exec (.hello p) s = .next (s.answered p f .ok
      ([0x91, 0x3E, 0x16, 0x48, 1, 64, 16, 16, 0x00, 0x01, s.resetCause.byte, BitVec.ofNat 8 s.resetCount] ++ session .A ++
        session .B ++ [BitVec.ofNat 8 ((List.finRange 64).countP fun l => (s.lines.at l).state.isInit)]))

/-- An OPEN in range makes a fresh open on a CLOSED session, and tears the old one down first on an OPEN session with
replace set and on a LAPSED session with another tag (R97, R98, R100, R107, R72). An OPEN with an argument out of
range is refused with BAD_ARG, and one in range without replace on an OPEN session with SESSION_ACTIVE; neither
changes anything (R96, R97). -/
def Obligations.OpenMakesAFreshSession : Prop :=
  (∀ (p : Port) (s : State) (f : Frame) (prm : Params) (replace : Bool), prm.inRange →
     s.serves p .openSession (prm.payload replace) f →
     let results : List Byte := [0, 0, BitVec.ofNat 8 prm.window, 0, 0, 1, 0, 0, 0, 0, 0]
     match (s.sessions.at p).state with
     | .closed => exec (.openSession p) s = .next ((s.freshlyOpened p prm).answered p f .ok results)
     | .opened _ _ => replace = true →
         exec (.openSession p) s = .next (((s.tornDown p).freshlyOpened p prm).answered p f .ok results)
     | .lapsed old _ _ => prm.tag ≠ old.tag →
         exec (.openSession p) s = .next (((s.tornDown p).freshlyOpened p prm).answered p f .ok results)) ∧
  ((∀ (p : Port) (s : State) (f : Frame) (tag keepalive window timeout limit retain replace : Nat),
     tag < 65536 → keepalive < 65536 → window < 256 → timeout < 65536 → limit < 256 → retain < 65536 → replace < 256 →
     ¬ (1 ≤ tag ∧ 100 ≤ keepalive ∧ keepalive ≤ 60000 ∧ 1 ≤ window ∧ window ≤ 32 ∧ 20 ≤ timeout ∧ timeout ≤ 5000 ∧
       1 ≤ limit ∧ limit ≤ 15 ∧ retain ≤ 600 ∧ replace ≤ 1) →
     s.serves p .openSession (openPayload tag keepalive window timeout limit retain replace) f →
     exec (.openSession p) s = .next (s.answered p f .badArg [])) ∧
   ∀ (p : Port) (s : State) (f : Frame) (prm : Params), prm.inRange → s.serves p .openSession (prm.payload false) f →
     s.isOpen p = true → exec (.openSession p) s = .next (s.answered p f .sessionActive []))

/-- An OPEN in range with the tag of a LAPSED session resumes it: journal, sets, tag and window are kept, the other
parameters are the request's, the retry count is 0, the go-back mark stands at the oldest INFLIGHT record, outputs in
GRACE are OWNED again, and the lost lists are reported and emptied (R97, R99, R100, R73, R131). -/
def Obligations.OpenResumesALapsedSession : Prop :=
  ∀ (p : Port) (s : State) (f : Frame) (prm old : Params) (why : LapseReason) (retain : Nat) (replace : Bool), prm.inRange →
    s.serves p .openSession (prm.payload replace) f → (s.sessions.at p).state = .lapsed old why retain → prm.tag = old.tag →
    let e := s.engines.at p
    let oldest := match (s.journals.at p).inflight with
      | [] => e.nextSeq - 1
      | x :: _ => x.seq
    exec (.openSession p) s = .next
      (({ s with
          sessions := s.sessions.put p
            { s.sessions.at p with
              state := .opened { prm with window := old.window } (s.now + 4 * (3 * prm.keepalive))
              lostSets := []
              lostOutputs := [] }
          engines := s.engines.put p { e with retryCount := 0, goBack := (s.journals.at p).inflight.head?.map Sent.seq }
          outputs := s.outputs.update fun _ o => match o.state with
            | .grace q _ => if q = p then { o with state := .owned p } else o
            | .free | .owned _ | .safeHeld _ => o } : State).answered p f .ok
        ([1, match why with
            | .silence => 1
            | .retry => 2, BitVec.ofNat 8 old.window] ++ leBytes 2 oldest.toNat ++ leBytes 2 e.nextSeq.toNat ++
          maskBytes 2 16 (fun w => decide (w ∈ (s.sessions.at p).lostSets)) ++
          maskBytes 2 16 (fun o => decide (o ∈ (s.sessions.at p).lostOutputs))))

/-- CLOSE tears the requesting session down and leaves it CLOSED (R101, R107). -/
def Obligations.CloseTearsTheSessionDown : Prop :=
  ∀ (p : Port) (s : State) (f : Frame), s.serves p .close [] f →
    exec (.close p) s = .next ((s.tornDown p).answered p f .ok [])

/-- PING reports the time, both session states, the masks, the counts and the loss flag, and changes nothing (R102,
R177). -/
def Obligations.PingReportsAndChangesNothing : Prop :=
  ∀ (p : Port) (s : State) (f : Frame), s.serves p .ping [] f →
    exec (.ping p) s = .next (s.answered p f .ok
      (leBytes 4 s.time.toNat ++
        ([1, match (s.sessions.at p.other).state with
          | .closed => 0
          | .opened _ _ => 1
          | .lapsed _ _ _ => 2] : List Byte) ++
        maskBytes 2 16 (s.staleMask p) ++ maskBytes 2 16 (s.attentionMask p) ++
        [BitVec.ofNat 8 (s.journals.at p).unsent.length, BitVec.ofNat 8 (s.journals.at p).inflight.length,
          if (s.sessions.at p).loss then 1 else 0]))

/-- SET_TIME writes the count, moves the stamp of every line in PENDING by the step, and reports the old time. In the
journal of each session that is OPEN or LAPSED the TIME_MARK is admitted at the end, or it is lost with the loss
flag; it is admitted where the session holds fewer than 64 records, and lost where it holds 192 or needs a shared
slot and none is free. Where one shared slot is free it goes to the session that needs it, and to one of the two
where both do, whose order is free (R146, R61, R48, R59; log 7). -/
def Obligations.SetTimeMovesTheCount : Prop :=
  ∀ (p : Port) (s : State) (f : Frame) (new : Time), s.serves p .setTime (leBytes 4 new.toNat) f →
    ∃ t, exec (.setTime p) s = .next t ∧ t.time = new ∧ t.now = s.now ∧
      t.lines = (s.lines.update fun _ r => match r.state with
        | .pending d stamp expiry => { r with state := .pending d (stamp + (new - s.time)) expiry }
        | .disabled _ | .init _ | .stable _ | .chatter _ _ => r) ∧
      t.ports = (s.answered p f .ok (leBytes 4 s.time.toNat)).ports ∧
      s.changesOnly [.clock, .lines, .sessions, .journals, .engines, .ports, .orders] t ∧
      let admitted (q : Port) : Prop :=
        t.journals.at q =
            { s.journals.at q with
              unsent := (s.journals.at q).unsent ++ [{ stamp := new, body := .timeMark s.time new }] } ∧
          t.sessions.at q = s.sessions.at q ∧ t.engines.at q = s.engines.at q
      let lost (q : Port) : Prop :=
        t.journals.at q = s.journals.at q ∧ t.sessions.at q = { s.sessions.at q with loss := true } ∧
          t.engines.at q =
            { s.engines.at q with statusChanged := (s.engines.at q).statusChanged || !(s.sessions.at q).loss }
      let needsShared (q : Port) : Prop := (s.sessions.at q).state ≠ .closed ∧ 64 ≤ (s.journals.at q).holding ∧
        (s.journals.at q).holding < 192
      (∀ q : Port,
        let j := s.journals.at q
        match (s.sessions.at q).state with
        | .closed => t.journals.at q = j ∧ t.sessions.at q = s.sessions.at q ∧ t.engines.at q = s.engines.at q
        | .opened _ _ | .lapsed _ _ _ => (admitted q ∨ lost q) ∧ (j.holding < 64 → admitted q) ∧
            (j.holding < 192 → 2 ≤ s.sharedFree → admitted q) ∧
            (needsShared q → ¬ needsShared q.other → 1 ≤ s.sharedFree → admitted q) ∧
            (192 ≤ j.holding ∨ (64 ≤ j.holding ∧ s.sharedFree = 0) → lost q)) ∧
      (needsShared .A → needsShared .B → s.sharedFree = 1 → (admitted .A ∧ lost .B) ∨ (admitted .B ∧ lost .A))

/-- RESTART becomes pending on its port with an OK response, unless the other session is OPEN and force is clear
(WRONG_STATE) or force is no flag (BAD_ARG) (R152). -/
def Obligations.RestartBecomesPending : Prop :=
  ∀ (p : Port) (s : State) (f : Frame) (force : Nat), force < 256 → s.serves p .restart [byteOf force] f →
    (force ≤ 1 → (s.isOpen p.other = false ∨ force = 1) → exec (.restart p) s = .next
      (({ s with ports := s.ports.put p { s.ports.at p with restartPending := true } } : State).answered p f .ok [])) ∧
    (force = 0 → s.isOpen p.other = true → exec (.restart p) s = .next (s.answered p f .wrongState [])) ∧
    (2 ≤ force → exec (.restart p) s = .next (s.answered p f .badArg []))

/-! ### Lines -/

/-- An accepted CONFIG_LINE gives every named line the configuration and sends it to INIT or DISABLED with every
timer stopped, its edge counter and last raw sample kept, and leaves the output of a named readback line unverified
where it was WAITING, DEFERRED or OK; nothing else changes (R19, R14, R5, R142). That a named line which has the
sample in progress still to take keeps it, and takes it under the new configuration, is the model's reading (log 14).
CONFIG_LINE is refused with BAD_ARG
when an argument is out of range or no line is named, and otherwise with IN_USE when a named line is a member of an
ARMED or STALE set, whoever owns it; no line changes (R18). -/
def Obligations.ConfigLineSendsLinesThroughInit : Prop :=
  (∀ (p : Port) (s : State) (f : Frame) (named : LineId → Bool) (c : LineConfig), c.inRange → (∃ l, named l = true) →
     (∀ l, named l = true → ¬ s.watches l) →
     s.serves p .configLine (configPayload named c.enable.toNat c.invert.toNat c.debounce c.chatterLimit c.chatterWindow
       c.counted.byte.toNat) f →
     exec (.configLine p) s = .next
       (({ s with
           lines := s.lines.update fun l r =>
             if named l then
               { r with config := c, state := if c.enable then .init none else .disabled r.state.level, chatterCount := 0,
                        windowTimer := none }
             else r
           outputs := s.outputs.update fun o r =>
             if named (OutId.readback o) then
               match r.verify with
               | .waiting _ | .deferred | .ok => { r with verify := .unverified }
               | .off | .unverified => r
             else r } : State).answered p f .ok [])) ∧
  (∀ (p : Port) (s : State) (f : Frame) (named : LineId → Bool) (enable invert debounce limit window counted : Nat),
     enable < 256 → invert < 256 → debounce < 256 → limit < 256 → window < 65536 → counted < 256 →
     s.serves p .configLine (configPayload named enable invert debounce limit window counted) f →
     let inRange := enable ≤ 1 ∧ invert ≤ 1 ∧ debounce ≤ 250 ∧ limit ≤ 63 ∧ 10 ≤ window ∧ window ≤ 10000 ∧ counted ≤ 3 ∧
       ∃ l, named l = true
     (¬ inRange → exec (.configLine p) s = .next (s.answered p f .badArg [])) ∧
     (inRange → (∃ l, named l = true ∧ s.watches l) → exec (.configLine p) s = .next (s.answered p f .inUse [])))

/-- READ_LINE_CONFIG gives the six configuration fields of the lines of its run and changes nothing; a run out of
range is refused with BAD_ARG (R20, R177). -/
def Obligations.ReadLineConfigReportsARun : Prop :=
  ∀ (p : Port) (s : State) (f : Frame) (first count : Nat), first < 256 → count < 256 →
    s.serves p .readLineConfig [byteOf first, byteOf count] f →
    let valid := first ≤ 63 ∧ 1 ≤ count ∧ count ≤ 16 ∧ first + count ≤ 64
    (valid → exec (.readLineConfig p) s = .next (s.answered p f .ok
      ([byteOf first, byteOf count] ++
        (linesNamed fun l => decide (first ≤ l.val ∧ l.val < first + count)).flatMap fun l =>
          let c := (s.lines.at l).config
          [if c.enable then 1 else 0, if c.invert then 1 else 0, byteOf c.debounce, byteOf c.chatterLimit] ++
            leBytes 2 c.chatterWindow ++
            ([match c.counted with
              | .none => 0
              | .rising => 1
              | .falling => 2
              | .both => 3] : List Byte)))) ∧
    (¬ valid → exec (.readLineConfig p) s = .next (s.answered p f .badArg []))

/-- READ_COUNTERS gives the counters of the lines of its run as they stand and, with the clear flag, returns them to
0 in the same taking; no other counter is touched; a run or a flag out of range is refused with BAD_ARG (R21, R177).
-/
def Obligations.ReadCountersReportsAndClears : Prop :=
  ∀ (p : Port) (s : State) (f : Frame) (first count clear : Nat), first < 256 → count < 256 → clear < 256 →
    s.serves p .readCounters [byteOf first, byteOf count, byteOf clear] f →
    let valid := first ≤ 63 ∧ 1 ≤ count ∧ count ≤ 16 ∧ first + count ≤ 64 ∧ clear ≤ 1
    let inRun (l : LineId) : Bool := decide (first ≤ l.val ∧ l.val < first + count)
    (valid → exec (.readCounters p) s = .next
      (({ s with
          lines := s.lines.update fun l r => if clear = 1 ∧ inRun l then { r with edges := 0 } else r } : State).answered
        p f .ok ([byteOf first, byteOf count] ++ (linesNamed inRun).flatMap fun l => leBytes 4 (s.lines.at l).edges))) ∧
    (¬ valid → exec (.readCounters p) s = .next (s.answered p f .badArg []))

/-- READ_LINES gives one byte for each line, the state in bits 0 to 2, D in bits 3 and 4, and the last raw sample in
bit 5, all as they stand when it is taken, and changes nothing (R22, R178). Where lines have the sample in progress
still to take, they take it first, each as its own event and in an order the spec leaves open, so that the entries
are those between two samples (R22; the model's form, log 15). -/
def Obligations.ReadLinesReportsEveryLine : Prop :=
  ∀ (p : Port) (s : State) (f : Frame), s.serves p .readLines [] f →
    let entries (t : State) : List Byte := (List.finRange 64).map fun l =>
      let r := t.lines.at l
      let state : Byte := match r.state with
        | .disabled _ => 0
        | .init _ => 1
        | .stable _ => 2
        | .pending _ _ _ => 3
        | .chatter _ _ => 4
      let level : Byte := match r.state with
        | .disabled none | .init _ => 2
        | .disabled (some d) | .stable d | .pending d _ _ | .chatter d _ => if d then 1 else 0
      let raw : Byte := if r.lastRaw = some true then 1 else 0
      state ||| (level <<< 3) ||| (raw <<< 5)
    ((∀ l, (s.lines.at l).waiting = none) → exec (.readLines p) s = .next (s.answered p f .ok (entries s))) ∧
    ((∃ l, (s.lines.at l).waiting ≠ none) →
      ∃ order : List LineId, order.Nodup ∧ (∀ l, l ∈ order ↔ (s.lines.at l).waiting ≠ none) ∧
        let t := order.foldl (fun u l => u.takeDue (.line l)) { s with choice := s.choice + 1 }
        (∀ l, (t.lines.at l).waiting = none) ∧ exec (.readLines p) s = .next (t.answered p f .ok (entries t)))

/-! ### Watch sets -/

/-- Every set request refuses a set number above 15 with BAD_ARG; those that act on an existing set refuse a FREE one
with WRONG_STATE and one of the other session with NOT_OWNER, whatever its state (R34). -/
def Obligations.SetRequestsMakeTheirFirstChecks : Prop :=
  ∀ (p : Port) (s : State) (f : Frame) (b : Nat), b < 256 →
    (16 ≤ b →
      (∀ rest : List Byte, rest.length = 9 → s.serves p .defineSet (byteOf b :: rest) f →
        exec (.defineSet p) s = .next (s.answered p f .badArg [])) ∧
      ∀ k ∈ [ReqKind.armSet, .disarmSet, .deleteSet, .readSet, .ackSet, .resyncSet, .adoptSet],
        s.serves p k [byteOf b] f → exec (k.command p) s = .next (s.answered p f .badArg [])) ∧
    ∀ k ∈ [ReqKind.armSet, .disarmSet, .deleteSet, .ackSet, .resyncSet], ∀ w : SetId, w.val = b →
      s.serves p k [byteOf b] f →
      (s.sets.at w = none → exec (k.command p) s = .next (s.answered p f .wrongState [])) ∧
      ∀ ws, s.sets.at w = some ws → ws.owner ≠ p → exec (k.command p) s = .next (s.answered p f .notOwner [])

/-- DEFINE_SET gives a FREE set, or an IDLE set of the requester, its mode and members, IDLE, without a snapshot and
with attention clear; a set of the other session is refused with NOT_OWNER, an ARMED or STALE one of the requester
with WRONG_STATE, and a mode or member list out of range with BAD_ARG; no journal changes (R35). Of two DEFINE_SET
requests for one FREE set, one on each port, the one taken first is accepted and the other refused with NOT_OWNER, in
either order (R36). -/
def Obligations.DefineSetDefinesASet : Prop :=
  (∀ (p : Port) (s : State) (f : Frame) (w : SetId) (mode : Nat) (named : LineId → Bool), mode < 256 →
     s.serves p .defineSet ([byteOf w.val, byteOf mode] ++ maskBytes 8 64 named) f →
     (3 ≤ mode ∨ (∀ l, named l = false) → exec (.defineSet p) s = .next (s.answered p f .badArg [])) ∧
     ∀ m : SetMode, mode = (match m with
         | .each => 0
         | .latest => 1
         | .summary => 2) → (∃ l, named l = true) →
       let accepted := exec (.defineSet p) s = .next
         (({ s with
             sets := s.sets.put w (some
               { owner := p, mode := m, members := linesNamed named, snapshot := none, phase := .idle,
                 attention := false }) } : State).answered p f .ok [])
       match s.sets.at w with
       | none => accepted
       | some ws =>
         if ws.owner ≠ p then exec (.defineSet p) s = .next (s.answered p f .notOwner [])
         else if ws.phase = .idle then accepted
         else exec (.defineSet p) s = .next (s.answered p f .wrongState [])) ∧
  (∀ (p : Port) (s : State) (f g : Frame) (w : SetId) (m n : SetMode) (named others : LineId → Bool),
     s.sets.at w = none → (∃ l, named l = true) → (∃ l, others l = true) →
     s.serves p .defineSet ([byteOf w.val, m.byte] ++ maskBytes 8 64 named) f →
     s.serves p.other .defineSet ([byteOf w.val, n.byte] ++ maskBytes 8 64 others) g →
     ∃ t ws, exec (.defineSet p) s = .next t ∧
       (t.ports.at p).responses.getLast? = ((s.answered p f .ok []).ports.at p).responses.getLast? ∧
       t.sets.at w = some ws ∧ ws.owner = p ∧ ws.phase = .idle ∧
       exec (.defineSet p.other) t = .next (t.answered p.other g .notOwner []))

/-- ARM_SET takes the D of every member of an IDLE set as its snapshot and arms it, attention clear; a set that is
not IDLE, or with a member whose D is unknown, is refused with WRONG_STATE (R37). -/
def Obligations.ArmSetTakesTheLevels : Prop :=
  ∀ (p : Port) (s : State) (f : Frame) (w : SetId) (ws : WatchSet), s.serves p .armSet [byteOf w.val] f →
    s.sets.at w = some ws → ws.owner = p →
    (∀ levels : List Bool, ws.phase = .idle → ws.members.map s.level = levels.map some →
      exec (.armSet p) s = .next
        (({ s with
            sets := s.sets.put w (some { ws with snapshot := some levels, phase := .armed, attention := false }) } :
          State).answered p f .ok (byteOf ws.members.length :: levelListBytes levels))) ∧
    (ws.phase ≠ .idle ∨ (∃ l ∈ ws.members, s.level l = none) →
      exec (.armSet p) s = .next (s.answered p f .wrongState []))

/-- DISARM_SET removes the UNSENT records of an ARMED or STALE set, makes its INFLIGHT records VOID in their places
with their numbers and stamps, and makes it IDLE with its snapshot kept; an IDLE set is refused with WRONG_STATE
(R38, R57). -/
def Obligations.DisarmSetVoidsTheRecords : Prop :=
  ∀ (p : Port) (s : State) (f : Frame) (w : SetId) (ws : WatchSet), s.serves p .disarmSet [byteOf w.val] f →
    s.sets.at w = some ws → ws.owner = p →
    (ws.phase ≠ .idle → exec (.disarmSet p) s = .next
      (({ s with
          journals := s.journals.put p
            { inflight := (s.journals.at p).inflight.map fun x =>
                if x.entry.body.set? = some w then { x with entry := { x.entry with body := .void w } } else x
              unsent := (s.journals.at p).unsent.filter fun r => decide (r.body.set? ≠ some w) }
          sets := s.sets.put w (some { ws with phase := .idle, attention := false }) } : State).answered p f .ok [])) ∧
    (ws.phase = .idle → exec (.disarmSet p) s = .next (s.answered p f .wrongState []))

/-- DELETE_SET makes an IDLE set FREE and leaves its VOID records in the journal; an ARMED or STALE set is refused
with WRONG_STATE (R39). -/
def Obligations.DeleteSetFreesAnIdleSet : Prop :=
  ∀ (p : Port) (s : State) (f : Frame) (w : SetId) (ws : WatchSet), s.serves p .deleteSet [byteOf w.val] f →
    s.sets.at w = some ws → ws.owner = p →
    (ws.phase = .idle → exec (.deleteSet p) s = .next
      (({ s with sets := s.sets.put w none } : State).answered p f .ok [])) ∧
    (ws.phase ≠ .idle → exec (.deleteSet p) s = .next (s.answered p f .wrongState []))

/-- READ_SET reports any set that is not FREE, whoever owns it, and changes nothing; a FREE set is refused with
WRONG_STATE (R40, R177, R25). The mismatch of a set: every member without a snapshot; with one, the members whose D
is unknown or not the snapshot's level (R25). The stale mask of a session names the sets it owns that are STALE, and
its attention mask those it owns whose attention flag is set (R25). -/
def Obligations.ReadSetReportsAnySet : Prop :=
  (∀ (p : Port) (s : State) (f : Frame) (w : SetId), s.serves p .readSet [byteOf w.val] f →
     (s.sets.at w = none → exec (.readSet p) s = .next (s.answered p f .wrongState [])) ∧
     ∀ ws, s.sets.at w = some ws →
       let held := ((s.journals.at ws.owner).inflight.map Sent.entry ++ (s.journals.at ws.owner).unsent).countP fun r =>
         decide (r.body.set? = some w)
       let inSnapshot (l : LineId) : Bool := match ws.snapshot with
         | none => false
         | some levels => ((ws.members.zip levels).find? fun m => m.1 = l).any Prod.snd
       exec (.readSet p) s = .next (s.answered p f .ok
         (([match ws.owner with
             | .A => 1
             | .B => 2,
           match ws.phase with
             | .idle => 1
             | .armed => 2
             | .stale _ => 3,
           match ws.phase with
             | .stale .overrun => 1
             | .stale .adopted => 2
             | .idle | .armed => 0,
           match ws.mode with
             | .each => 0
             | .latest => 1
             | .summary => 2] : List Byte) ++
         maskBytes 8 64 (fun l => decide (l ∈ ws.members)) ++ [if ws.snapshot = none then 0 else 1] ++
         maskBytes 8 64 (fun l => decide (l ∈ ws.members) && inSnapshot l) ++
         maskBytes 8 64 (fun l => decide (l ∈ ws.members ∧ s.level l = some true)) ++
         maskBytes 8 64 (fun l => decide (l ∈ ws.members ∧ s.level l = none)) ++
         maskBytes 8 64 (fun l => decide (l ∈ ws.mismatch s.level)) ++
         [if ws.attention then 1 else 0, byteOf held] ++
         ws.members.map fun l => byteOf (s.lines.at l).state.code))) ∧
  (∀ (ws : WatchSet) (level : LineId → Option Bool) (l : LineId),
     (ws.snapshot = none → ws.mismatch level = ws.members) ∧
     ∀ levels : List Bool, ws.snapshot = some levels → levels.length = ws.members.length → ws.members.Nodup →
       (l ∈ ws.mismatch level ↔ ∃ b, (l, b) ∈ ws.members.zip levels ∧ level l ≠ some b)) ∧
  (∀ (s : State) (p : Port) (w : SetId),
     (s.staleMask p w = true ↔ ∃ ws, s.sets.at w = some ws ∧ ws.owner = p ∧ ∃ why, ws.phase = .stale why) ∧
     (s.attentionMask p w = true ↔ ∃ ws, s.sets.at w = some ws ∧ ws.owner = p ∧ ws.attention = true))

/-- ACK_SET takes the D of every member of an ARMED SUMMARY set as its snapshot, returns it, and clears attention; a
record-mode set, or one that is not ARMED, is refused with WRONG_STATE; no status-changed mark is raised (R41). -/
def Obligations.AckSetAcknowledgesASummarySet : Prop :=
  ∀ (p : Port) (s : State) (f : Frame) (w : SetId) (ws : WatchSet), s.serves p .ackSet [byteOf w.val] f →
    s.sets.at w = some ws → ws.owner = p →
    (∀ levels : List Bool, ws.mode = .summary → ws.phase = .armed → ws.members.map s.level = levels.map some →
      exec (.ackSet p) s = .next
        (({ s with sets := s.sets.put w (some { ws with snapshot := some levels, attention := false }) } :
          State).answered p f .ok (byteOf ws.members.length :: levelListBytes levels))) ∧
    (ws.mode ≠ .summary ∨ ws.phase ≠ .armed → exec (.ackSet p) s = .next (s.answered p f .wrongState []))

/-- RESYNC_SET of an ARMED or STALE record-mode set removes its UNSENT records, admits a RESYNC_MARK with every
member's D at the end of the journal and arms the set, its INFLIGHT records and snapshot untouched; where no slot is
to be had even so it is refused with NO_ROOM, and an IDLE set with WRONG_STATE (R43, R44, R48). RESYNC_SET of an
ARMED or STALE SUMMARY set takes every member's D as the snapshot, clears attention and arms the set; no record is
admitted (R45). -/
def Obligations.ResyncSetAdmitsAMark : Prop :=
  (∀ (p : Port) (s : State) (f : Frame) (w : SetId) (ws : WatchSet), s.serves p .resyncSet [byteOf w.val] f →
     s.sets.at w = some ws → ws.owner = p →
     (∀ levels : List Bool, ws.phase ≠ .idle → ws.mode ≠ .summary → ws.members.map s.level = levels.map some →
       let j := s.journals.at p
       let kept := j.unsent.filter fun r => decide (r.body.set? ≠ some w)
       let h := j.inflight.length + kept.length
       let room := h < 64 ∨ (h < 192 ∧ (h - 64) + ((s.journals.at p.other).holding - 64) < 128)
       (room → exec (.resyncSet p) s = .next
         (({ s with
             journals := s.journals.put p
               { j with unsent := kept ++ [{ stamp := s.time, body := .resyncMark w levels }] }
             sets := s.sets.put w (some { ws with phase := .armed }) } : State).answered p f .ok
           (byteOf ws.members.length :: levelListBytes levels))) ∧
       (¬ room → exec (.resyncSet p) s = .next (s.answered p f .noRoom []))) ∧
     (ws.phase = .idle → exec (.resyncSet p) s = .next (s.answered p f .wrongState []))) ∧
  (∀ (p : Port) (s : State) (f : Frame) (w : SetId) (ws : WatchSet) (levels : List Bool),
     s.serves p .resyncSet [byteOf w.val] f → s.sets.at w = some ws → ws.owner = p → ws.phase ≠ .idle →
     ws.mode = .summary → ws.members.map s.level = levels.map some →
     exec (.resyncSet p) s = .next
       (({ s with
           sets := s.sets.put w (some { ws with snapshot := some levels, phase := .armed, attention := false }) } :
         State).answered p f .ok (byteOf ws.members.length :: levelListBytes levels)))

/-- ADOPT_SET moves a set of the LAPSED other session to the requester: STALE (ADOPTED) where it was ARMED or STALE,
mode, members, snapshot and attention kept; the other session's UNSENT records of it are removed, its INFLIGHT ones
VOID, the set joins its lost-sets list, and the requester's status-changed mark is raised. A FREE set and one of the
requester are refused with WRONG_STATE, one of a session that is not LAPSED with CONFLICT (R113, R114, R115, R116).
The list with the set joined holds exactly the old entries and the new one, in ascending order (R110). -/
def Obligations.AdoptSetMovesALapsedSessionsSet : Prop :=
  (∀ (p : Port) (s : State) (f : Frame) (w : SetId), s.serves p .adoptSet [byteOf w.val] f →
     match s.sets.at w with
     | none => exec (.adoptSet p) s = .next (s.answered p f .wrongState [])
     | some ws =>
       if ws.owner = p then exec (.adoptSet p) s = .next (s.answered p f .wrongState [])
       else if s.isLapsed p.other = false then exec (.adoptSet p) s = .next (s.answered p f .conflict [])
       else
         let y := p.other
         exec (.adoptSet p) s = .next
           (({ s with
               sets := s.sets.put w (some { ws with owner := p, phase := if ws.phase = .idle then .idle else .stale .adopted })
               journals := s.journals.put y
                 { inflight := (s.journals.at y).inflight.map fun x =>
                     if x.entry.body.set? = some w then { x with entry := { x.entry with body := .void w } } else x
                   unsent := (s.journals.at y).unsent.filter fun r => decide (r.body.set? ≠ some w) }
               sessions := s.sessions.put y
                 { s.sessions.at y with lostSets := insertAscending w (s.sessions.at y).lostSets }
               engines := s.engines.put p { s.engines.at p with statusChanged := true } } : State).answered p f .ok
             [if ws.phase = .idle then 1 else 3])) ∧
  (∀ (x : SetId) (list : List SetId), list.Pairwise (· < ·) →
     (insertAscending x list).Pairwise (· < ·) ∧ ∀ y, y ∈ insertAscending x list ↔ y = x ∨ y ∈ list)

/-! ### Journals -/

/-- ACK through N, d behind the last number sent: with d above 255 it is refused with BAD_ACK; otherwise the INFLIGHT
records at least d behind are removed from the front, each folded in order into the snapshot of its set where the
acknowledging session owns it in ARMED or STALE, and where one was removed the retry count is 0, the retransmit timer
restarts or stops and the go-back mark follows. The results are the number acknowledged and the oldest INFLIGHT left,
or the last number sent (R84, R86 to R89). What a record does to a snapshot: a CHANGE or CHATTER_END sets the level
of its line, a RESYNC_MARK every level, the other kinds none (R88, R33). -/
def Obligations.AckFoldsAndRemoves : Prop :=
  (∀ (p : Port) (s : State) (f : Frame) (n : Seq) (prm : Params) (silence : Nat), s.serves p .ack (leBytes 2 n.toNat) f →
     (s.sessions.at p).state = .opened prm silence →
     let e := s.engines.at p
     let j := s.journals.at p
     let d := (e.nextSeq - 1 - n).toNat
     let k := j.inflight.length
     let removed := j.inflight.take (k - d)
     let left := j.inflight.drop (k - d)
     let oldest := match left with
       | [] => e.nextSeq - 1
       | x :: _ => x.seq
     (255 < d → exec (.ack p) s = .next (s.answered p f .badAck [])) ∧
     (d ≤ 255 → k ≤ d → exec (.ack p) s = .next (s.answered p f .ok ([0] ++ leBytes 2 oldest.toNat))) ∧
     (d ≤ 255 → d < k → exec (.ack p) s = .next
       (({ s with
           sets := s.sets.update fun w ws => ws.map fun x =>
             if x.owner = p ∧ x.phase ≠ .idle then
               { x with
                 snapshot := ((removed.map Sent.entry).filter fun r => decide (r.body.set? = some w)).foldl
                   (fun snap r => r.body.fold x.members snap) x.snapshot }
             else x
           journals := s.journals.put p { j with inflight := left }
           engines := s.engines.put p
             { e with
               retryCount := 0
               retransmit := if left = [] then none else some (s.now + 4 * prm.retryTimeout)
               goBack := match e.goBack with
                 | none => none
                 | some r =>
                   if left = [] then none
                   else if r ∈ removed.map Sent.seq then left.head?.map Sent.seq
                   else some r } } : State).answered p f .ok ([byteOf (k - d)] ++ leBytes 2 oldest.toNat)))) ∧
  (∀ (members : List LineId) (snap levels : List Bool) (w : SetId) (l : LineId) (level : Bool) (folded : Option (Nat × Time))
     (o : OutId) (old new : Time) (driven readback : Bool),
     snap.length = members.length → levels.length = members.length →
     let set : Option (List Bool) := some ((members.zip snap).map fun m => if m.1 = l then level else m.2)
     (RecBody.change w l level folded).fold members (some snap) = set ∧
       (RecBody.chatterEnd w l level).fold members (some snap) = set ∧
       (RecBody.resyncMark w levels).fold members (some snap) = some levels ∧
       (RecBody.chatterStart w l level).fold members (some snap) = some snap ∧
       (RecBody.void w).fold members (some snap) = some snap ∧
       (RecBody.outputFault o driven readback).fold members (some snap) = some snap ∧
       (RecBody.timeMark old new).fold members (some snap) = some snap)

/-- JOURNAL_STATUS reports the journal, the pool, the loss flag as it stood and the masks, and clears the loss flag
when asked; clear-loss out of range is refused with BAD_ARG (R69, R47, R177). -/
def Obligations.JournalStatusReportsThePool : Prop :=
  ∀ (p : Port) (s : State) (f : Frame) (clear : Nat), clear < 256 → s.serves p .journalStatus [byteOf clear] f →
    let j := s.journals.at p
    let e := s.engines.at p
    let oldest := match j.inflight with
      | [] => e.nextSeq - 1
      | x :: _ => x.seq
    (clear ≤ 1 → exec (.journalStatus p) s = .next
      (({ s with
          sessions := s.sessions.put p
            { s.sessions.at p with loss := if clear = 1 then false else (s.sessions.at p).loss } } : State).answered p f .ok
        ([byteOf j.unsent.length, byteOf j.inflight.length] ++ leBytes 2 oldest.toNat ++ leBytes 2 e.nextSeq.toNat ++
          [byteOf (j.inflight.length + j.unsent.length),
            byteOf (128 - (j.holding - 64) - ((s.journals.at p.other).holding - 64)),
            if (s.sessions.at p).loss then 1 else 0] ++
          maskBytes 2 16 (s.staleMask p) ++ maskBytes 2 16 (s.attentionMask p)))) ∧
    (2 ≤ clear → exec (.journalStatus p) s = .next (s.answered p f .badArg []))

/-! ### Outputs -/

/-- CLAIM_OUTPUT takes all the named outputs or none: FREE ones become OWNED with the safe level as latch, those of a
LAPSED other session with take become OWNED with the driven level as latch and join its lost-outputs list, the
requester's own stay. No driven level changes and no verification restarts. It is refused with CONFLICT where the
other session owns a named output and is not LAPSED or take is clear, and with BAD_ARG where no output is named or
take is no flag (R132, R119, R177). The list with an output joined holds exactly the old entries and the new one, in
ascending order (R110). -/
def Obligations.ClaimOutputTakesAllOrNone : Prop :=
  (∀ (p : Port) (s : State) (f : Frame) (named : OutId → Bool) (take : Nat), take < 256 →
     s.serves p .claimOutput (maskBytes 2 16 named ++ [byteOf take]) f →
     let refused := ∃ o, named o = true ∧ (s.outputs.at o).state.owner = some p.other ∧
       ¬ (take = 1 ∧ s.isLapsed p.other = true)
     (2 ≤ take ∨ (∀ o, named o = false) → exec (.claimOutput p) s = .next (s.answered p f .badArg [])) ∧
     (take ≤ 1 → (∃ o, named o = true) → refused → exec (.claimOutput p) s = .next (s.answered p f .conflict [])) ∧
     (take ≤ 1 → (∃ o, named o = true) → ¬ refused → exec (.claimOutput p) s = .next
       (({ s with
           outputs := s.outputs.update fun o r =>
             if named o then
               match r.state.owner with
               | none => { r with state := .owned p, latch := r.safe }
               | some q => if q = p then r else { r with state := .owned p, latch := r.driven }
             else r
           sessions := s.sessions.put p.other
             { s.sessions.at p.other with
               lostOutputs := ((List.finRange 16).filter fun o =>
                   named o && decide ((s.outputs.at o).state.owner = some p.other)).foldl
                 (fun list o => insertAscending o list) (s.sessions.at p.other).lostOutputs } } : State).answered p f .ok
         (maskBytes 2 16 fun o => named o && (s.outputs.at o).driven)))) ∧
  (∀ (x : OutId) (list : List OutId), list.Pairwise (· < ·) →
     (insertAscending x list).Pairwise (· < ·) ∧ ∀ y, y ∈ insertAscending x list ↔ y = x ∨ y ∈ list)

/-- RELEASE_OUTPUT makes every named output of the requester FREE, fault latched 0, its safe level driven; it is
refused with NOT_OWNER where one is not the requester's and with BAD_ARG where none is named (R134). -/
def Obligations.ReleaseOutputFreesTheNamed : Prop :=
  ∀ (p : Port) (s : State) (f : Frame) (named : OutId → Bool), s.serves p .releaseOutput (maskBytes 2 16 named) f →
    ((∀ o, named o = false) → exec (.releaseOutput p) s = .next (s.answered p f .badArg [])) ∧
    ((∃ o, named o = true ∧ (s.outputs.at o).state.owner ≠ some p) →
      exec (.releaseOutput p) s = .next (s.answered p f .notOwner [])) ∧
    ((∃ o, named o = true) → (∀ o, named o = true → (s.outputs.at o).state.owner = some p) →
      exec (.releaseOutput p) s = .next
        (({ s with outputs := s.outputs.update fun o r => if named o then r.freed else r } : State).answered p f .ok []))

/-- WRITE_OUTPUTS gives the named outputs of the requester their latches and returns SAFE_HELD ones to OWNED,
verification starting anew where the driven level changes; it is refused with NOT_OWNER where one is not the
requester's, and with BAD_ARG where both lists are empty or an output is in both (R135, R138). -/
def Obligations.WriteOutputsWritesTheLatches : Prop :=
  ∀ (p : Port) (s : State) (f : Frame) (set clear : OutId → Bool),
    s.serves p .writeOutputs (maskBytes 2 16 set ++ maskBytes 2 16 clear) f →
    let bad := (∀ o, set o = false ∧ clear o = false) ∨ ∃ o, set o = true ∧ clear o = true
    let mine := ∀ o, set o = true ∨ clear o = true → (s.outputs.at o).state.owner = some p
    (bad → exec (.writeOutputs p) s = .next (s.answered p f .badArg [])) ∧
    (¬ bad → ¬ mine → exec (.writeOutputs p) s = .next (s.answered p f .notOwner [])) ∧
    (¬ bad → mine → exec (.writeOutputs p) s = .next
      (({ s with
          outputs := s.outputs.update fun o r =>
            if set o then r.reverified { r with state := .owned p, latch := true }
            else if clear o then r.reverified { r with state := .owned p, latch := false }
            else r } : State).answered p f .ok []))

/-- CONFIG_OUTPUT writes the four fields of an output of the requester and puts its verification in WAITING, or OFF
with verify enable off; an output that is not the requester's is refused with NOT_OWNER, an argument out of range
with BAD_ARG (R136, R142). -/
def Obligations.ConfigOutputWritesTheFields : Prop :=
  ∀ (p : Port) (s : State) (f : Frame) (o safe grace enable time : Nat),
    o < 256 → safe < 256 → grace < 65536 → enable < 256 → time < 256 →
    s.serves p .configOutput ([byteOf o, byteOf safe] ++ leBytes 2 grace ++ [byteOf enable, byteOf time]) f →
    let inRange := o ≤ 15 ∧ safe ≤ 1 ∧ grace ≤ 60000 ∧ enable ≤ 1 ∧ 1 ≤ time ∧ time ≤ 250
    (¬ inRange → exec (.configOutput p) s = .next (s.answered p f .badArg [])) ∧
    (inRange → ∀ k : OutId, k.val = o →
      ((s.outputs.at k).state.owner ≠ some p → exec (.configOutput p) s = .next (s.answered p f .notOwner [])) ∧
      ((s.outputs.at k).state.owner = some p → exec (.configOutput p) s = .next
        (({ s with
            outputs := s.outputs.put k
              { s.outputs.at k with
                safe := decide (safe = 1), grace := grace, verifyEnable := decide (enable = 1), verifyTime := time
                verify := if enable = 1 then .waiting none else .off } } : State).answered p f .ok [])))

/-- READ_OUTPUTS gives the nine bytes of every output as it stands and then clears fault latched of the outputs
named, which are all the requester's; otherwise it is refused with NOT_OWNER (R137, R178). -/
def Obligations.ReadOutputsReportsAndClears : Prop :=
  ∀ (p : Port) (s : State) (f : Frame) (named : OutId → Bool), s.serves p .readOutputs (maskBytes 2 16 named) f →
    ((∃ o, named o = true ∧ (s.outputs.at o).state.owner ≠ some p) →
      exec (.readOutputs p) s = .next (s.answered p f .notOwner [])) ∧
    ((∀ o, named o = true → (s.outputs.at o).state.owner = some p) →
      exec (.readOutputs p) s = .next
        (({ s with
            outputs := s.outputs.update fun o r => if named o then { r with fault := false } else r } : State).answered p f .ok
          ((List.finRange 16).flatMap fun o =>
            let r := s.outputs.at o
            let bit (value : Byte) (b : Bool) : Byte := if b then value else 0
            ([match r.state.owner with
              | none => 0
              | some .A => 1
              | some .B => 2,
             match r.state with
              | .free => 0
              | .owned _ => 1
              | .grace _ _ => 2
              | .safeHeld _ => 3,
             bit 1 r.latch ||| bit 2 r.driven ||| bit 4 r.safe ||| bit 8 r.verifyEnable ||| bit 16 r.fault] : List Byte) ++
            leBytes 2 r.grace ++
            ([byteOf r.verifyTime,
             match r.verify with
              | .off => 0
              | .waiting _ => 1
              | .deferred => 2
              | .ok => 3
              | .unverified => 4,
             match s.level (OutId.readback o) with
              | some false => 0
              | some true => 1
              | none => 2,
             byteOf (s.lines.at (OutId.readback o)).state.code] : List Byte))))

/-! ### Line events -/

/-- RAW_EDGE begins a pending period in STABLE with the time count as its stamp, restarts the settle timer in INIT
and, whatever the debounce, the quiet timer in CHATTER, and changes nothing but the line (R3, R5, R6, R11, R9; the
count of free orders is the model's, log 6). With debounce 0 RAW_EDGE acts at once: in INIT it settles the line as
SETTLE_EXPIRY does, and in STABLE an input away from D is a due change, which is applied, or, past the chatter limit,
freezes the line (R5, R6, R8, R10). The time count is the stamp of that change: a field line's CHANGE record carries
it to the journal of the one ARMED EACH set that follows (R6, R27). A sample at D ends the pending period without an
event, at a raw edge before the expiry and at the expiry itself: the line is STABLE again, its stamp gone, no set or
counter hears of it, and for a field line nothing else changes (R7, R8, R13). -/
def Obligations.ARawEdgeStartsTimers : Prop :=
  (∀ (s : State) (l : LineId) (x : Bool), s.resetPeriod = none → (s.lines.at l).waiting = some x →
     (s.lines.at l).lastRaw = some (!x) →
     let r := (s.lines.at l).expireWindow s.now
     (∀ d quiet, r.state = .chatter d quiet → exec (.rawEdge l) s = .next
       { s with lines := s.lines.put l (r.left x (.chatter d (s.now + 4 * r.config.chatterWindow))) }) ∧
     (r.config.debounce ≠ 0 →
       (∀ settle, r.state = .init settle → exec (.rawEdge l) s = .next
         { s with lines := s.lines.put l (r.left x (.init (some (s.now + 4 * r.config.debounce)))) }) ∧
       ∀ d, r.state = .stable d → (x ^^ r.config.invert) ≠ d → exec (.rawEdge l) s = .next
         { s with
           lines := s.lines.put l (r.left x (.pending d s.time (s.now + 4 * r.config.debounce)))
           choice := s.choice + 1 })) ∧
  (∀ (s : State) (l : LineId) (x : Bool), s.resetPeriod = none → (s.lines.at l).waiting = some x →
     (s.lines.at l).lastRaw = some (!x) → (s.lines.at l).config.debounce = 0 →
     let r := (s.lines.at l).expireWindow s.now
     (∀ settle, r.state = .init settle → exec (.rawEdge l) s = exec (.settleExpiry l) s) ∧
     ∀ d, r.state = .stable d → (x ^^ r.config.invert) ≠ d →
       let passes := r.config.chatterLimit = 0 ∨ r.chatterCount + 1 ≤ r.config.chatterLimit
       ∃ t, exec (.rawEdge l) s = .next t ∧
         (passes → t.lines = s.lines.put l ((s.lines.at l).changed s.now d x)) ∧
         (¬ passes → t.lines = s.lines.put l ((s.lines.at l).frozen s.now d x)) ∧
         s.changesOnly [.lines, .sets, .outputs, .sessions, .journals, .engines, .orders] t ∧
         (l.val < 48 → s.unfollowed l → s.changesOnly [.lines, .orders] t) ∧
         ∀ w ws, l.val < 48 → s.followedBy l w ws → ws.mode = .each → passes →
           ({ s with lines := t.lines, choice := s.choice + 1 } : State).recordAsked w ws
             { stamp := s.time, body := .change w l (!d) none } t) ∧
  (∀ (s : State) (l : LineId) (x d : Bool) (stamp : Time) (expiry : Nat), s.resetPeriod = none →
     (s.lines.at l).waiting = some x → (s.lines.at l).state = .pending d stamp expiry →
     (x ^^ (s.lines.at l).config.invert) = d →
     let after : State :=
       { s with
         lines := s.lines.put l (((s.lines.at l).expireWindow s.now).left x (.stable d))
         choice := s.choice + 1 }
     let abandons (c : Instr) : Prop := ∃ t, exec c s = .next t ∧ t.lines = after.lines ∧
       s.changesOnly [.lines, .outputs, .sessions, .journals, .engines, .orders] t ∧ (l.val < 48 → t = after)
     ((s.lines.at l).lastRaw = some (!x) → abandons (.rawEdge l)) ∧ (expiry ≤ s.now → abandons (.debounceExpiry l)))

/-- SETTLE_EXPIRY: at a sample that is no raw edge, or at any sample with debounce 0, a line in INIT takes its input
level as D and is STABLE, without an event: no set and no counter hears of it, and for a field line nothing but the
line changes (R5, R13); what the output of a readback line makes of it is TheReadbackIsJudged's. -/
def Obligations.TheSettleExpiryEstablishesD : Prop :=
  ∀ (s : State) (l : LineId) (x : Bool) (settle : Option Nat), s.resetPeriod = none → (s.lines.at l).waiting = some x →
    (s.lines.at l).state = .init settle →
    ((s.lines.at l).config.debounce = 0 ∨
      (∃ e, settle = some e ∧ e ≤ s.now) ∧ (s.lines.at l).lastRaw ≠ some (!x)) →
    let r := (s.lines.at l).expireWindow s.now
    ∃ t, exec (.settleExpiry l) s = .next t ∧ t.lines = s.lines.put l (r.left x (.stable (x ^^ r.config.invert))) ∧
      s.changesOnly [.lines, .outputs, .sessions, .journals, .engines, .orders] t ∧
      (l.val < 48 → s.changesOnly [.lines, .orders] t)

/-- DEBOUNCE_EXPIRY with the input away from D and the chatter check passed applies the change: D, the edge counter,
the chatter count and the window timer follow, and for a field line that no ARMED set follows nothing else changes
(R8, R9, R16). The edge counter counts the changes of its kind and stays at 4294967295 (R16). DEBOUNCE_EXPIRY of a
change that would exceed the chatter limit freezes D: the line is in CHATTER with its quiet timer running, its window
timer stopped, and its counts as they stood (R8, R10). -/
def Obligations.TheDebounceExpiryDecides : Prop :=
  (∀ (s : State) (l : LineId) (d : Bool) (stamp : Time) (expiry : Nat) (x : Bool), s.resetPeriod = none →
     (s.lines.at l).changeDue s.now d stamp expiry x →
     ∃ t, exec (.debounceExpiry l) s = .next t ∧ t.lines = s.lines.put l ((s.lines.at l).changed s.now d x) ∧
       s.changesOnly [.lines, .sets, .outputs, .sessions, .journals, .engines, .orders] t ∧
       (l.val < 48 → s.unfollowed l → s.changesOnly [.lines, .orders] t)) ∧
  (∀ (level : Bool) (n : Nat), n ≤ 4294967295 →
     let one := if n = 4294967295 then 4294967295 else n + 1
     countEdge .none level n = n ∧ countEdge .both level n = one ∧
       countEdge .rising level n = (if level then one else n) ∧ countEdge .falling level n = (if level then n else one)) ∧
  (∀ (s : State) (l : LineId) (d x : Bool) (stamp : Time) (expiry : Nat), s.resetPeriod = none →
     let r := (s.lines.at l).expireWindow s.now
     (s.lines.at l).waiting = some x → r.state = .pending d stamp expiry → expiry ≤ s.now → (x ^^ r.config.invert) = !d →
     r.config.chatterLimit ≠ 0 → r.config.chatterLimit < r.chatterCount + 1 →
     ∃ t, exec (.debounceExpiry l) s = .next t ∧
       t.lines = s.lines.put l ((s.lines.at l).frozen s.now d x) ∧
       s.changesOnly [.lines, .sets, .outputs, .sessions, .journals, .engines, .orders] t ∧
       (l.val < 48 → s.unfollowed l → s.changesOnly [.lines, .orders] t))

/-- QUIET_EXPIRY at a sample that is no raw edge ends the chatter: D takes the input level, the chatter count is 0,
and the edge counter counts the change if there is one (R11, R12, R16). CHATTER_WINDOW_EXPIRY returns the chatter
count to 0 and stops the window timer, and takes the level of the expiry sample in the same event: a line that the
level leaves in its state has taken that sample and changes in nothing else, and where the sample is also a raw edge
or the debounce expiry, the event is that one (R3, R4, R9; one event, log 4). -/
def Obligations.TheQuietExpiryEndsTheChatter : Prop :=
  (∀ (s : State) (l : LineId) (d x : Bool) (quiet : Nat), s.resetPeriod = none →
     let r := (s.lines.at l).expireWindow s.now
     (s.lines.at l).waiting = some x → r.state = .chatter d quiet → quiet ≤ s.now → r.lastRaw ≠ some (!x) →
     ∃ t, exec (.quietExpiry l) s = .next t ∧ t.lines = s.lines.put l ((s.lines.at l).calmed s.now d x) ∧
       s.changesOnly [.lines, .sets, .outputs, .sessions, .journals, .engines, .orders] t ∧
       (l.val < 48 → s.unfollowed l → s.changesOnly [.lines, .orders] t)) ∧
  (∀ (s : State) (l : LineId) (x d : Bool) (last : Nat), s.resetPeriod = none →
     let r := s.lines.at l
     let level := x ^^ r.config.invert
     r.waiting = some x → r.windowTimer = some last → last ≤ s.now →
     let kept (state : LineState) : State :=
       { s with lines := s.lines.put l { r.left x state with chatterCount := 0, windowTimer := none } }
     (r.state = .stable d → level = d → exec (.chatterWindowExpiry l) s = .next (kept (.stable d))) ∧
     (∀ stamp expiry, r.state = .pending d stamp expiry → level = !d → s.now < expiry →
       exec (.chatterWindowExpiry l) s = .next (kept (.pending d stamp expiry))) ∧
     (r.lastRaw = some (!x) → exec (.chatterWindowExpiry l) s = exec (.rawEdge l) s) ∧
     (∀ stamp expiry, r.state = .pending d stamp expiry → expiry ≤ s.now →
       exec (.chatterWindowExpiry l) s = exec (.debounceExpiry l) s))

/-- A change of a field line that one ARMED EACH set follows puts a CHANGE record with the pending edge stamp at the
end of the owner's journal; where there is no room the set is STALE (OVERRUN) and the owner's status-changed mark
raised, the journal as it was (R27, R31, R48, R60). QUIET_EXPIRY of a field line that one ARMED record-mode set
follows puts a CHATTER_END record there in the same way, whether or not D changed, and the entry to CHATTER a
CHATTER_START record (R30, R31, R48, R53). Whatever other sets follow the line, field line or readback line, each
ARMED record-mode set that hears a chatter event, and each EACH set that hears a change, asks for its own record so
(R26, R27, R30; who hears is AnEventReachesEveryFollower). -/
def Obligations.RecordModeSetsRecordTheEvents : Prop :=
  (∀ (s : State) (l : LineId) (d : Bool) (stamp : Time) (expiry : Nat) (x : Bool) (w : SetId) (ws : WatchSet),
     s.resetPeriod = none → (s.lines.at l).changeDue s.now d stamp expiry x → l.val < 48 → s.followedBy l w ws →
     ws.mode = .each →
     ∃ t, exec (.debounceExpiry l) s = .next t ∧
       ({ s with lines := s.lines.put l ((s.lines.at l).changed s.now d x), choice := s.choice + 1 } : State).recordAsked w ws
         { stamp := stamp, body := .change w l (!d) none } t) ∧
  (∀ (s : State) (l : LineId) (d x : Bool) (w : SetId) (ws : WatchSet), s.resetPeriod = none →
     let r := (s.lines.at l).expireWindow s.now
     (s.lines.at l).waiting = some x → l.val < 48 → s.followedBy l w ws → ws.mode ≠ .summary →
     let level := x ^^ r.config.invert
     let asks (c : Instr) (after : LineRec) (body : RecBody) : Prop := ∃ t, exec c s = .next t ∧
       ({ s with lines := s.lines.put l after, choice := s.choice + 1 } : State).recordAsked w ws
         { stamp := s.time, body := body } t
     (∀ quiet, r.state = .chatter d quiet → quiet ≤ s.now → r.lastRaw ≠ some (!x) →
       asks (.quietExpiry l) ((s.lines.at l).calmed s.now d x) (.chatterEnd w l level)) ∧
     ∀ stamp expiry, r.state = .pending d stamp expiry → expiry ≤ s.now → level = !d → r.config.chatterLimit ≠ 0 →
       r.config.chatterLimit < r.chatterCount + 1 →
       asks (.debounceExpiry l) ((s.lines.at l).frozen s.now d x) (.chatterStart w l d)) ∧
  (∀ (s : State) (l : LineId) (w : SetId) (ws : WatchSet) (level changed : Bool) (stamp : Time),
     s.sets.at w = some ws → ws.phase = .armed → l ∈ ws.members → ws.mode ≠ .summary →
     let told (e : LineEvent) : State := State.hear l (.event e) s (.set w)
     s.recordAsked w ws { stamp := stamp, body := .chatterStart w l level } (told (.chatterStart level stamp)) ∧
       s.recordAsked w ws { stamp := stamp, body := .chatterEnd w l level } (told (.chatterEnd level stamp changed)) ∧
       (ws.mode = .each →
         s.recordAsked w ws { stamp := stamp, body := .change w l level none } (told (.change level stamp))))

/-- A change of a field line that one ARMED LATEST set follows updates the UNSENT CHANGE record of that set and line:
level and last stamp follow, the fold count rises up to 255, its stamp stays. With no record of its set and line and
no TIME_MARK behind it, it keeps its place; otherwise it moves to the end and its stamp shifts by new less old of
every TIME_MARK it passes. Without such a record a new one is asked for as in EACH mode (R28, R29, R52, R56).
Whatever other sets follow the line, field line or readback line, each ARMED LATEST set that hears a change absorbs
it so (R26, R28; who hears is AnEventReachesEveryFollower). -/
def Obligations.ALatestSetAbsorbsTheChange : Prop :=
  (∀ (s : State) (l : LineId) (d : Bool) (stamp : Time) (expiry : Nat) (x : Bool) (w : SetId) (ws : WatchSet),
     s.resetPeriod = none → (s.lines.at l).changeDue s.now d stamp expiry x → l.val < 48 → s.followedBy l w ws →
     ws.mode = .latest →
     ∃ t, exec (.debounceExpiry l) s = .next t ∧
       ({ s with lines := s.lines.put l ((s.lines.at l).changed s.now d x), choice := s.choice + 1 } :
         State).changeAbsorbed w ws l (!d) stamp t) ∧
  (∀ (s : State) (l : LineId) (w : SetId) (ws : WatchSet) (level : Bool) (stamp : Time),
     s.sets.at w = some ws → ws.phase = .armed → l ∈ ws.members → ws.mode = .latest →
     s.changeAbsorbed w ws l level stamp (State.hear l (.event (.change level stamp)) s (.set w)))

/-- A change of a field line that one ARMED SUMMARY set follows admits no record; if every member agreed with the
snapshot before it, attention is set and the owner's status-changed mark raised, and a QUIET_EXPIRY does the same
where the new D differs from the frozen one (R32). Whatever other sets follow the line, field line or readback line,
an ARMED SUMMARY set that hears an event does so where every member agreed with D before the event and not all agree
now, and nothing otherwise; a chatter-start changes no D (R15, R26, R32; who hears is AnEventReachesEveryFollower). -/
def Obligations.ASummarySetRaisesAttention : Prop :=
  (∀ (s : State) (l : LineId) (d x : Bool) (w : SetId) (ws : WatchSet) (levels : List Bool),
     s.resetPeriod = none → l.val < 48 → s.followedBy l w ws →
     ws.mode = .summary → ws.snapshot = some levels → levels.length = ws.members.length → ws.members.Nodup →
     let agreed := ws.members.map s.level = levels.map some
     let told (after : LineRec) : State := { s with lines := s.lines.put l after, choice := s.choice + 1 }
     (∀ stamp expiry, (s.lines.at l).changeDue s.now d stamp expiry x →
       let base := told ((s.lines.at l).changed s.now d x)
       (agreed → exec (.debounceExpiry l) s = .next (base.attended w ws)) ∧
       (¬ agreed → exec (.debounceExpiry l) s = .next base)) ∧
     ∀ quiet, (s.lines.at l).waiting = some x → (s.lines.at l).state = .chatter d quiet → quiet ≤ s.now →
       (s.lines.at l).lastRaw ≠ some (!x) →
       let base := told ((s.lines.at l).calmed s.now d x)
       let moves := (x ^^ (s.lines.at l).config.invert) ≠ d
       (agreed ∧ moves → exec (.quietExpiry l) s = .next (base.attended w ws)) ∧
       (¬ (agreed ∧ moves) → exec (.quietExpiry l) s = .next base)) ∧
  (∀ (s : State) (l : LineId) (w : SetId) (ws : WatchSet) (levels : List Bool) (level changed : Bool) (stamp : Time),
     s.sets.at w = some ws → ws.phase = .armed → l ∈ ws.members → ws.mode = .summary → ws.snapshot = some levels →
     levels.length = ws.members.length →
     let agreed (before : Bool) : Prop :=
       (ws.members.map fun m => if m = l then some before else s.level m) = levels.map some
     let told (e : LineEvent) : State := State.hear l (.event e) s (.set w)
     let heard (before : Bool) (t : State) : Prop :=
       (agreed before ∧ ws.members.map s.level ≠ levels.map some → t = s.attended w ws) ∧
       (¬ (agreed before ∧ ws.members.map s.level ≠ levels.map some) → t = s)
     heard (!level) (told (.change level stamp)) ∧
       heard (if changed then !level else level) (told (.chatterEnd level stamp changed)) ∧
       heard level (told (.chatterStart level stamp)))

/-- A command that makes a line raise a debounced event, DEBOUNCE_EXPIRY, RAW_EDGE with debounce 0 or QUIET_EXPIRY,
leaves the line with the record that its rule gives and hands the event to every ARMED set that has the line as a
member, and to the output that the line senses, to each once (R6, R8, R10, R12, R15, R26, R59). The order is the
spec's to leave open; the model takes one, and counts it (log 6). -/
def Obligations.AnEventReachesEveryFollower : Prop :=
  ∀ (s : State) (l : LineId) (c : Instr) (e : LineEvent) (after : LineRec), s.raises l c e after →
    ∃ order : List Hearer, order.Nodup ∧
      (∀ w, .set w ∈ order ↔ ∃ ws, s.sets.at w = some ws ∧ ws.phase = .armed ∧ l ∈ ws.members) ∧
      (∀ o, .output o ∈ order ↔ l = OutId.readback o) ∧
      exec c s = .next
        (order.foldl (State.hear l (.event e)) { s with lines := s.lines.put l after, choice := s.choice + 1 })

/-! ### Notices and session events -/

/-- NOTICE_BUILD on a free transmitter with no response waiting and the engine at work: the records are the INFLIGHT
ones from the resend point, up to 8, and, with the go-back done, UNSENT ones up to 8 in all and to the window, which
are numbered from the next sequence and become INFLIGHT. The frame carries the notice number, the first number, the
count, the loss flag and repeat, the masks and the records; the number rises, the status-changed mark clears, and the
retransmit timer starts where the oldest INFLIGHT record is placed (R74 to R79, R82, R179; records of at most 16
bytes, R181). No notice is built while the session is not OPEN, a frame is being sent, a response waits or the engine
has no work: no go-back, no status-changed mark, and no UNSENT record, or the window full of INFLIGHT ones (R75,
R76). -/
def Obligations.ANoticeIsBuiltAndSent : Prop :=
  (∀ (p : Port) (s : State) (prm : Params) (silence : Nat), s.resetPeriod = none →
     (s.sessions.at p).state = .opened prm silence → (s.ports.at p).sending = none → (s.ports.at p).responses = [] →
     let e := s.engines.at p
     let j := s.journals.at p
     (∀ r ∈ j.records, r.bytes.length ≤ 16) →
     (e.goBack ≠ none ∨ (j.unsent ≠ [] ∧ j.inflight.length < prm.window) ∨ e.statusChanged = true) →
     let run : List Sent := match e.goBack with
       | none => []
       | some r => j.inflight.dropWhile fun x => decide (x.seq ≠ r)
     let resent := run.take 8
     let mark := (run.drop 8).head?.map Sent.seq
     let fresh := if mark = none then j.unsent.take (min (8 - resent.length) (prm.window - j.inflight.length)) else []
     let sent : List Sent := resent ++ fresh.zipIdx.map fun x => { seq := e.nextSeq + BitVec.ofNat 16 x.2, entry := x.1 }
     let first := match sent with
       | [] => e.nextSeq
       | x :: _ => x.seq
     let oldestPlaced : Bool := match j.inflight with
       | [] => !fresh.isEmpty
       | x :: _ => decide (resent.head? = some x)
     exec (.noticeBuild p) s = .next
       { s with
         ports := s.ports.put p
           { s.ports.at p with
             sending := some
               { kind := 0x60
                 tag := e.noticeNumber
                 payload := leBytes 2 first.toNat ++
                   [byteOf sent.length,
                     (if (s.sessions.at p).loss then 1 else 0) ||| (if resent = [] then 0 else 2)] ++
                   maskBytes 2 16 (s.staleMask p) ++ maskBytes 2 16 (s.attentionMask p) ++
                   (sent.map Sent.entry).flatMap Rec.bytes } }
         journals := s.journals.put p { inflight := j.inflight ++ sent.drop resent.length, unsent := j.unsent.drop fresh.length }
         engines := s.engines.put p
           { e with
             nextSeq := e.nextSeq + BitVec.ofNat 16 fresh.length
             goBack := mark
             noticeNumber := e.noticeNumber + 1
             statusChanged := false
             retransmit := if oldestPlaced then some (s.now + 4 * prm.retryTimeout) else e.retransmit } }) ∧
  (∀ (p : Port) (s : State), (s.isOpen p = false ∨ (s.ports.at p).sending ≠ none ∨ (s.ports.at p).responses ≠ [] ∨
       ((s.engines.at p).goBack = none ∧ (s.engines.at p).statusChanged = false ∧
         ((s.journals.at p).unsent = [] ∨
           ∀ prm silence, (s.sessions.at p).state = .opened prm silence →
             prm.window ≤ (s.journals.at p).inflight.length))) →
     exec (.noticeBuild p) s = .next s)

/-- Each kind of record is encoded in the bytes of R180. The frame check starts at 0xFFFF and takes each byte, most
significant bit first, with the polynomial 0x1021; that of the nine bytes of the text 123456789 is 0x29B1 (R159), and
a frame on the line is SYNC, LEN, its contents and its check, low byte first (R159, R168). A number is in its bytes
least significant first; in a mask and in a level list bit i of byte j stands for number 8j + i, and the bits beyond
the last are 0 (R175). -/
def Obligations.RecordsAndFramesAreEncoded : Prop :=
  (∀ (stamp last old new : Time) (w : SetId) (l : LineId) (o : OutId) (level readback : Bool) (n : Nat) (levels : List Bool),
     let bit (b : Bool) : Byte := if b then 1 else 0
     let st := leBytes 4 stamp.toNat
     Rec.bytes ⟨stamp, .change w l level none⟩ = [1, 0] ++ st ++ [byteOf w.val, byteOf l.val, bit level] ∧
     Rec.bytes ⟨stamp, .change w l level (some (n, last))⟩ =
       [1, 1] ++ st ++ [byteOf w.val, byteOf l.val, bit level, byteOf n] ++ leBytes 4 last.toNat ∧
     Rec.bytes ⟨stamp, .chatterStart w l level⟩ = [2, 0] ++ st ++ [byteOf w.val, byteOf l.val, bit level] ∧
     Rec.bytes ⟨stamp, .chatterEnd w l level⟩ = [3, 0] ++ st ++ [byteOf w.val, byteOf l.val, bit level] ∧
     Rec.bytes ⟨stamp, .resyncMark w levels⟩ =
       [4, 0] ++ st ++ [byteOf w.val, byteOf levels.length] ++ levelListBytes levels ∧
     Rec.bytes ⟨stamp, .outputFault o level readback⟩ = [5, 0] ++ st ++ [byteOf o.val, bit level, bit readback] ∧
     Rec.bytes ⟨new, .timeMark old new⟩ = [6, 0] ++ leBytes 4 new.toNat ++ leBytes 4 old.toNat ∧
     Rec.bytes ⟨stamp, .void w⟩ = [7, 0] ++ st ++ [byteOf w.val] ∧
     (levels.length ≤ 64 → (Rec.bytes ⟨stamp, .resyncMark w levels⟩).length = 8 + (levels.length + 7) / 8)) ∧
  (crc16 [0x31, 0x32, 0x33, 0x34, 0x35, 0x36, 0x37, 0x38, 0x39] = 0x29B1 ∧
     ∀ f : Frame,
       let contents := f.kind :: f.tag :: f.payload
       let check := (crc16 (BitVec.ofNat 8 contents.length :: contents)).toNat
       f.wire = [0x96, BitVec.ofNat 8 contents.length] ++ contents ++ [BitVec.ofNat 8 check, BitVec.ofNat 8 (check / 256)]) ∧
  (crc16 [] = 0xFFFF ∧
     ∀ (bytes : List Byte) (b : Byte), crc16 (bytes ++ [b]) =
       (List.range 8).foldl (fun c _ => if c.getLsbD 15 then (c <<< 1) ^^^ 0x1021 else c <<< 1)
         (crc16 bytes ^^^ (b.zeroExtend 16 <<< 8))) ∧
  (∀ k n : Nat, (leBytes k n).length = k ∧
     ∀ j, j < k → (leBytes k n)[j]? = some (BitVec.ofNat 8 (n / 256 ^ j))) ∧
  (∀ (k n : Nat) (holds : Fin n → Bool), (maskBytes k n holds).length = k ∧
     ∀ i, i < 8 * k → ∃ b, (maskBytes k n holds)[i / 8]? = some b ∧
       b.getLsbD (i % 8) = if h : i < n then holds ⟨i, h⟩ else false) ∧
  (∀ levels : List Bool, (levelListBytes levels).length = (levels.length + 7) / 8 ∧
     ∀ i, i < 8 * ((levels.length + 7) / 8) → ∃ b, (levelListBytes levels)[i / 8]? = some b ∧
       b.getLsbD (i % 8) = levels.getD i false)

/-- RETRANSMIT_EXPIRY of an OPEN session counts a retry and, within the retry limit, sets the go-back mark at the
oldest INFLIGHT record with the timer stopped; past the limit the session lapses with reason RETRY (R83, R84, R105).
-/
def Obligations.TheRetransmitExpiryGoesBackOrLapses : Prop :=
  ∀ (p : Port) (s : State) (prm : Params) (silence expiry : Nat), s.resetPeriod = none →
    (s.sessions.at p).state = .opened prm silence → (s.engines.at p).retransmit = some expiry → expiry ≤ s.now →
    let e := s.engines.at p
    (e.retryCount + 1 ≤ prm.retryLimit → exec (.retransmitExpiry p) s = .next
      { s with
        engines := s.engines.put p
          { e with
            retryCount := e.retryCount + 1
            retransmit := none
            goBack := (s.journals.at p).inflight.head?.map Sent.seq } }) ∧
    (prm.retryLimit < e.retryCount + 1 → exec (.retransmitExpiry p) s = .next
      (({ s with engines := s.engines.put p { e with retryCount := e.retryCount + 1, retransmit := none } } :
        State).lapsedFrom p prm .retry))

/-- SILENCE_EXPIRY lapses an OPEN session with reason SILENCE (R103, R105, R106). RETAIN_EXPIRY tears a LAPSED
session down (R106, R107). GRACE_EXPIRY puts an output in GRACE in SAFE_HELD with the same owner, driving its safe
level, verification starting anew where that is a change of driven level (R130, R138). -/
def Obligations.ExpiriesOfSessionsAndGrace : Prop :=
  (∀ (p : Port) (s : State) (prm : Params) (silence : Nat), s.resetPeriod = none →
     (s.sessions.at p).state = .opened prm silence → silence ≤ s.now →
     exec (.silenceExpiry p) s = .next (s.lapsedFrom p prm .silence)) ∧
  (∀ (p : Port) (s : State) (prm : Params) (why : LapseReason) (retain : Nat), s.resetPeriod = none →
     (s.sessions.at p).state = .lapsed prm why retain → retain ≤ s.now →
     exec (.retainExpiry p) s = .next (s.tornDown p)) ∧
  (∀ (o : OutId) (s : State) (p : Port) (expiry : Nat), s.resetPeriod = none →
     (s.outputs.at o).state = .grace p expiry → expiry ≤ s.now →
     exec (.graceExpiry o) s = .next
       { s with outputs := s.outputs.put o ((s.outputs.at o).reverified { s.outputs.at o with state := .safeHeld p }) })

/-! ### Output events -/

/-- VERIFY_EXPIRY examines the readback line: a verdict on D in STABLE (R139), DEFERRED in PENDING, UNVERIFIED without
a fault in INIT, CHATTER and DISABLED. The verdict is OK at the driven level; at another it is a fault: fault latched
and UNVERIFIED, and, where fault latched was 0 and the output is owned, an OUTPUT_FAULT record at the end of the
owner's journal, or, without room, its loss flag (R139, R143, R48, R61). The same verdict is given, with its record,
on the new D of a change and, in UNVERIFIED, of a chatter-end of a readback line, on the D with which the line leaves
INIT, and, in DEFERRED, on D when the pending period is abandoned, at a raw edge or at the expiry; an OK or DEFERRED
output becomes UNVERIFIED, fault latched as it was, when the line enters CHATTER; in OFF and WAITING nothing is judged
(R17, R140, R141, R143). The changes, chatter-starts and chatter-ends are those of a line that no ARMED set follows;
with sets that follow it, the output makes of the event the same (R15; who hears is AnEventReachesEveryFollower). -/
def Obligations.TheReadbackIsJudged : Prop :=
  (∀ (o : OutId) (s : State) (expiry : Nat), s.resetPeriod = none → (s.outputs.at o).verify = .waiting (some expiry) →
     expiry ≤ s.now →
     match (s.lines.at (OutId.readback o)).state with
     | .pending _ _ _ => exec (.verifyExpiry o) s = .next
         { s with outputs := s.outputs.put o { s.outputs.at o with verify := .deferred } }
     | .init _ | .chatter _ _ | .disabled _ => exec (.verifyExpiry o) s = .next (s.unjudged o)
     | .stable d => exec (.verifyExpiry o) s = .next (s.judged o d)) ∧
  (∀ (s : State) (o : OutId) (x : Bool), s.resetPeriod = none →
     let l := OutId.readback o
     let r := (s.lines.at l).expireWindow s.now
     (s.lines.at l).waiting = some x →
     let verify := (s.outputs.at o).verify
     let level := x ^^ r.config.invert
     let base (after : LineRec) : State := { s with lines := s.lines.put l after, choice := s.choice + 1 }
     let settled := base (r.left x (.stable level))
     (∀ settle, r.state = .init settle →
       r.config.debounce = 0 ∨ ((∃ e, settle = some e ∧ e ≤ s.now) ∧ r.lastRaw ≠ some (!x)) →
       exec (.settleExpiry l) s = .next (if verify = .unverified then settled.judged o level else settled)) ∧
     (∀ d stamp expiry, r.state = .pending d stamp expiry → level = d →
       let abandons (c : Instr) : Prop := exec c s = .next (if verify = .deferred then settled.judged o d else settled)
       (r.lastRaw = some (!x) → abandons (.rawEdge l)) ∧ (expiry ≤ s.now → abandons (.debounceExpiry l))) ∧
     (s.unfollowed l → ∀ c e after, s.raises l c e after → exec c s = .next ((base after).readbackTold o e))) ∧
  (∀ (s : State) (o : OutId) (e : LineEvent),
     State.hear (OutId.readback o) (.event e) s (.output o) = s.readbackTold o e)

/-! ### Link events -/

/-- CHARACTER_RECEIVED without a framing error, by the receiver's state: SYNC begins a frame, a length of 2 to 248
opens the body, the body fills up to the check, and every character restarts the gap timer of 10 ms; another length
discards the frame, and in HUNT anything but SYNC is dropped (R160, R162, R163). GAP_EXPIRY discards the frame in
reception (R162, R163). -/
def Obligations.CharactersBuildAFrame : Prop :=
  (∀ (p : Port) (s : State) (c : Byte), s.resetPeriod = none → (s.ports.at p).awaitIdle = false →
     let port := s.ports.at p
     let gap := s.now + 40
     let rx (r : Receiver) : State := { s with ports := s.ports.put p { port with receiver := r } }
     (port.receiver = .hunt → exec (.characterReceived p c .good) s = .next (if c = 0x96 then rx (.length gap) else s)) ∧
     (∀ g, port.receiver = .length g → exec (.characterReceived p c .good) s = .next
       (if 2 ≤ c.toNat ∧ c.toNat ≤ 248 then rx (.body c [] gap)
        else { s with
               ports := s.ports.put p { port with receiver := .hunt, discarded := min 255 (port.discarded + 1) } })) ∧
     (∀ len got g, port.receiver = .body len got g → exec (.characterReceived p c .good) s = .next
       (if got.length + 1 < len.toNat then rx (.body len (got ++ [c]) gap) else rx (.crc len (got ++ [c]) none gap))) ∧
     ∀ len got g, port.receiver = .crc len got none g →
       exec (.characterReceived p c .good) s = .next (rx (.crc len got (some c) gap))) ∧
  (∀ (p : Port) (s : State) (gap : Nat), s.resetPeriod = none → gap ≤ s.now →
     ((s.ports.at p).receiver = .length gap ∨ (∃ len got, (s.ports.at p).receiver = .body len got gap) ∨
       ∃ len got low, (s.ports.at p).receiver = .crc len got low gap) →
     exec (.gapExpiry p) s = .next
       { s with
         ports := s.ports.put p
           { s.ports.at p with receiver := .hunt, discarded := min 255 ((s.ports.at p).discarded + 1) } })

/-- The second check byte decides: with the check equal the frame is valid, restarts the silence timer of an OPEN
session and joins the request queue, or is dropped with the overrun flag set when 4 frames wait; otherwise it is
discarded (R161, R164, R163, R103). -/
def Obligations.TheCheckDecidesTheFrame : Prop :=
  ∀ (p : Port) (s : State) (len kind tag low high : Byte) (payload : List Byte) (g : Nat), s.resetPeriod = none →
    (s.ports.at p).awaitIdle = false → (s.ports.at p).receiver = .crc len (kind :: tag :: payload) (some low) g →
    let port := s.ports.at p
    let valid := (crc16 (len :: kind :: tag :: payload)).toNat = low.toNat + 256 * high.toNat
    let heard := match (s.sessions.at p).state with
      | .opened prm _ =>
        s.sessions.put p { s.sessions.at p with state := .opened prm (s.now + 4 * (3 * prm.keepalive)) }
      | .closed | .lapsed _ _ _ => s.sessions
    (valid → exec (.characterReceived p high .good) s = .next
      { s with
        sessions := heard
        ports := s.ports.put p
          (if port.requests.length < 4 then
            { port with
              receiver := .hunt, requests := port.requests ++ [{ kind := kind, tag := tag, payload := payload }] }
           else { port with receiver := .hunt, overrun := true }) }) ∧
    (¬ valid → exec (.characterReceived p high .good) s = .next
      { s with ports := s.ports.put p { port with receiver := .hunt, discarded := min 255 (port.discarded + 1) } })

/-- A character with a framing error is dropped in HUNT and discards the frame in reception elsewhere; after a break
the receiver waits for the idle line; while it waits no character is taken; LINE_RETURNS_TO_IDLE ends the wait (R158,
R163; log 13). -/
def Obligations.FramingErrorsDiscardAndBreaksWait : Prop :=
  ∀ (p : Port) (s : State) (c : Byte) (stop : Framing), s.resetPeriod = none →
    let port := s.ports.at p
    let put (r : LinkPort) : State := { s with ports := s.ports.put p r }
    let discarded := { port with receiver := .hunt, discarded := min 255 (port.discarded + 1) }
    (port.awaitIdle = true → exec (.characterReceived p c stop) s = .next s) ∧
    exec (.lineReturnsToIdle p) s = .next (put { port with awaitIdle := false }) ∧
    (port.awaitIdle = false → port.receiver = .hunt →
      exec (.characterReceived p c .error) s = .next s ∧
      exec (.characterReceived p c .brk) s = .next (put { port with awaitIdle := true })) ∧
    (port.awaitIdle = false → port.receiver ≠ .hunt →
      exec (.characterReceived p c .error) s = .next (put discarded) ∧
      exec (.characterReceived p c .brk) s = .next (put { discarded with awaitIdle := true }))

/-- RESPONSE_SEND on a free transmitter takes the oldest response from its queue onto the line; FRAME_END frees the
transmitter, unless the frame is the OK response of a RESTART pending on the port, whose end is RESTART_RESET (R168,
R169, R154; log 19). -/
def Obligations.TheTransmitterSendsAndEnds : Prop :=
  ∀ (p : Port) (s : State), s.resetPeriod = none →
    let port := s.ports.at p
    (∀ f rest, port.sending = none → port.responses = f :: rest → exec (.responseSend p) s = .next
      { s with ports := s.ports.put p { port with sending := some f, responses := rest } }) ∧
    (∀ f, port.sending = some f →
      (port.restartPending = false ∨ f.kind ≠ 0x9F ∨ f.payload.head? ≠ some 0) → exec (.frameEnd p) s = .next
        { s with ports := s.ports.put p { port with sending := none } })

/-! ### SAMPLE -/

/-- SAMPLE takes every event that is still due, each once and in an order the spec leaves open, and then the raw
sample of all 64 lines; so with nothing due it takes the sample alone (R3, R4, R5, R15, R138, R139, R145; that a
SAMPLE takes what is left of the last one is the model's form, log 4). Due are the lines that have the last sample
still to take and the timers that have come to their expiry (R4, R83, R103, R106, R130, R138, R162). Each is taken as
its own command takes it. -/
def Obligations.ASampleIsTakenAtEveryLine : Prop :=
  (∀ (s : State) (raw : BitVec 64), s.resetPeriod = none → ∃ (ds : List Due) (t : State), ds.Perm s.due ∧ exec (.sample raw) s = .next t ∧
     (ds.foldl State.takeDue { s with choice := s.choice + 1 }).sampledTo raw t) ∧
  (∀ s : State, s.due.Nodup ∧
     (∀ l, .line l ∈ s.due ↔ (s.lines.at l).waiting ≠ none) ∧
     (∀ o, .verify o ∈ s.due ↔ ∃ e, (s.outputs.at o).verify = .waiting (some e) ∧ e ≤ s.now) ∧
     (∀ o, .grace o ∈ s.due ↔ ∃ p e, (s.outputs.at o).state = .grace p e ∧ e ≤ s.now) ∧
     ∀ p,
       (.retransmit p ∈ s.due ↔ ∃ e, (s.engines.at p).retransmit = some e ∧ e ≤ s.now) ∧
       (.silence p ∈ s.due ↔ ∃ prm e, (s.sessions.at p).state = .opened prm e ∧ e ≤ s.now) ∧
       (.retain p ∈ s.due ↔ ∃ prm why e, (s.sessions.at p).state = .lapsed prm why e ∧ e ≤ s.now) ∧
       (.gap p ∈ s.due ↔ ∃ g, g ≤ s.now ∧ ((s.ports.at p).receiver = .length g ∨
         (∃ len got, (s.ports.at p).receiver = .body len got g) ∨
         ∃ len got low, (s.ports.at p).receiver = .crc len got low g))) ∧
  (∀ s : State, s.resetPeriod = none →
     (∀ o, exec (.verifyExpiry o) s = .next (s.takeDue (.verify o)) ∧
       exec (.graceExpiry o) s = .next (s.takeDue (.grace o))) ∧
     (∀ p, exec (.retransmitExpiry p) s = .next (s.takeDue (.retransmit p)) ∧
       exec (.silenceExpiry p) s = .next (s.takeDue (.silence p)) ∧
       exec (.retainExpiry p) s = .next (s.takeDue (.retain p)) ∧ exec (.gapExpiry p) s = .next (s.takeDue (.gap p))) ∧
     ∀ l x, (s.lines.at l).waiting = some x →
       let r := s.lines.at l
       let edge := r.lastRaw = some (!x)
       let takes (c : Instr) : Prop := exec c s = .next (s.takeDue (.line l))
       (edge → takes (.rawEdge l)) ∧
       (∀ settle, r.state = .init settle → r.config.debounce = 0 ∨ ((∃ e, settle = some e ∧ e ≤ s.now) ∧ ¬ edge) →
         takes (.settleExpiry l)) ∧
       (∀ d stamp expiry, r.state = .pending d stamp expiry → expiry ≤ s.now → takes (.debounceExpiry l)) ∧
       (∀ d quiet, r.state = .chatter d quiet → quiet ≤ s.now → ¬ edge → takes (.quietExpiry l)) ∧
       ((∃ e, r.windowTimer = some e ∧ e ≤ s.now) → takes (.chatterWindowExpiry l)))

/-! ### Invariants -/

/-- State.reset meets every invariant below. -/
def Obligations.ResetMeetsTheInvariants : Prop :=
  State.reset.poolKept ∧ State.reset.queuesKept ∧ State.reset.heldInReset ∧ State.reset.numbered ∧ State.reset.owned ∧
    State.reset.lostListed ∧ State.reset.fitted ∧ State.reset.snapshotLaw

/-- Every step keeps the pool within its quotas: no session beyond 192 records, no more than 128 beyond the reserves
(R47, R48). Every step keeps the request and response queues at most 4 frames long (R168). -/
def Obligations.EveryStepKeepsTheBounds : Prop :=
  (∀ s t : State, s.poolKept → step s = .next t → t.poolKept) ∧
  (∀ s t : State, s.queuesKept → step s = .next t → t.queuesKept)

/-- Every step keeps every block at its reset values while a reset is asserted: the rules give these values when the
period ends, and that they hold during it is the model's reading (R150, R170; log 9). -/
def Obligations.EveryStepKeepsTheReset : Prop :=
  ∀ s t : State, s.heldInReset → step s = .next t → t.heldInReset

/-- Every step keeps the INFLIGHT records of each session numbered without a gap through the last number sent and
within the window, and the go-back mark on one of them (R74, R75, R84). -/
def Obligations.EveryStepKeepsTheNumbering : Prop :=
  ∀ s t : State, s.numbered → step s = .next t → t.numbered

/-- Every step keeps every set and output in the hands of a session that may hold it, and a CLOSED session without
records (R24, R94, R107, R129). Every step keeps the lost lists ascending, and empty outside LAPSED (R93, R110). -/
def Obligations.EveryStepKeepsTheOwnership : Prop :=
  (∀ s t : State, s.owned → step s = .next t → t.owned) ∧
  (∀ s t : State, s.lostListed → step s = .next t → t.lostListed)

/-- Every step keeps the sets and the journals fitted to each other (R23, R26, R51, R57). -/
def Obligations.EveryStepKeepsTheSetsAndRecordsFitted : Prop :=
  ∀ s t : State, s.owned → s.fitted → step s = .next t → t.fitted

/-- Every step keeps the snapshot law: the records of an ARMED record-mode set, applied in order to its snapshot,
give exactly the debounced levels of its members (R33). -/
def Obligations.EveryStepKeepsTheSnapshotLaw : Prop :=
  ∀ s t : State, s.owned → s.fitted → s.snapshotLaw → step s = .next t → t.snapshotLaw
end

