-- ==== Sys2Proof/Laws/Bytes.lean ====
section
/-! SUPPORT. Reading back what the field encodings write: little-endian numbers, masks, flags (R175). -/

namespace Sys2Proof.Machine

open Sys2Proof

@[simp] theorem leBytes_length (k n : Nat) : (leBytes k n).length = k := by
  induction k generalizing n with
  | zero => rfl
  | succ k ih => simp [leBytes, ih]

@[simp] theorem byteOf_toNat (n : Nat) : (byteOf n).toNat = n % 256 := by simp [byteOf]

/-- A number written in k bytes reads back modulo 256^k. -/
@[simp] theorem leNat_leBytes (k n : Nat) : leNat (leBytes k n) = n % 256 ^ k := by
  induction k generalizing n with
  | zero => simp [leBytes, leNat, Nat.mod_one]
  | succ k ih =>
    simp only [leBytes, leNat, ih, byteOf_toNat, pow_succ]
    rw [Nat.mul_comm (256 ^ k) 256, Nat.mod_mul]

/-- The field that follows a known run of bytes. -/
theorem argLe_append (pre post : List Byte) (k n : Nat) :
    argLe (pre ++ (leBytes k n ++ post)) pre.length k = n % 256 ^ k := by
  simp [argLe]

/-- The byte that follows a known run of bytes. -/
theorem arg8_append (pre post : List Byte) (b : Byte) : arg8 (pre ++ b :: post) pre.length = b.toNat := by
  simp [arg8, List.getD]

/-- Bit i of the number that levels spell is the i-th level. -/
theorem testBit_bitsToNat (bs : List Bool) (i : Nat) : (bitsToNat bs).testBit i = bs.getD i false := by
  induction bs generalizing i with
  | nil => simp [bitsToNat]
  | cons b bs ih =>
    rw [bitsToNat]
    cases i with
    | zero => cases b <;> simp [Nat.testBit_zero, Nat.add_mod]
    | succ i =>
      rw [Nat.testBit_succ]
      have h : (b.toNat + 2 * bitsToNat bs) / 2 = bitsToNat bs := by
        cases b
        · simp
        · simp; omega
      rw [h, ih]
      simp [List.getD]

theorem bitsToNat_lt (bs : List Bool) : bitsToNat bs < 2 ^ bs.length := by
  induction bs with
  | nil => simp [bitsToNat]
  | cons b bs ih =>
    rw [bitsToNat, List.length_cons, pow_succ]
    cases b <;> (simp; omega)

/-- Bit j of a mask over n things is whether it holds of the j-th. -/
theorem testBit_mask {n : Nat} (holds : Fin n → Bool) (j : Fin n) :
    (bitsToNat ((List.finRange n).map holds)).testBit j.val = holds j := by
  rw [testBit_bitsToNat]
  simp [List.getD]

/-- A mask reads back as the list of the things it holds of, in ascending order (R175). -/
theorem argMask_append {n k : Nat} (hk : n = 8 * k) (pre post : List Byte) (holds : Fin n → Bool) :
    argMask n (pre ++ (maskBytes k n holds ++ post)) pre.length k = (List.finRange n).filter holds := by
  have hlt : bitsToNat ((List.finRange n).map holds) < 256 ^ k := by
    have h := bitsToNat_lt ((List.finRange n).map holds)
    have e : (256 : Nat) ^ k = 2 ^ (8 * k) := by rw [pow_mul]; norm_num
    rw [List.length_map, List.length_finRange] at h
    rw [e]
    exact hk ▸ h
  unfold argMask maskBytes
  rw [argLe_append, Nat.mod_eq_of_lt hlt]
  congr 1
  funext j
  exact testBit_mask holds j

/-- Byte j of a number in k bytes (R175). -/
theorem leBytes_get (k n j : Nat) (h : j < k) : (leBytes k n)[j]? = some (BitVec.ofNat 8 (n / 256 ^ j)) := by
  induction k generalizing n j with
  | zero => omega
  | succ k ih =>
    rcases j with _ | j
    · simp [leBytes, byteOf]
    · simp only [leBytes, List.getElem?_cons_succ]
      rw [ih _ _ (by omega), Nat.div_div_eq_div_mul, Nat.pow_succ']

/-- Bit i of the bytes is bit i of the number (R175). -/
theorem leBytes_bit (k n i : Nat) (h : i < 8 * k) : ∃ b, (leBytes k n)[i / 8]? = some b ∧ b.getLsbD (i % 8) = n.testBit i := by
  refine ⟨_, leBytes_get k n (i / 8) (by omega), ?_⟩
  have h8 : i % 8 < 8 := Nat.mod_lt _ (by omega)
  rw [BitVec.getLsbD_ofNat]
  simp only [h8, decide_true, Bool.true_and]
  rw [show (256 : Nat) ^ (i / 8) = 2 ^ (8 * (i / 8)) by rw [pow_mul]; norm_num, ← Nat.shiftRight_eq_div_pow, Nat.testBit_shiftRight]
  congr 1; omega

@[simp] theorem maskBytes_length (k n : Nat) (holds : Fin n → Bool) : (maskBytes k n holds).length = k := by simp [maskBytes]

end Sys2Proof.Machine
end

