-- ==== Sys2Proof/Laws/Table.lean ====
section
/-! SUPPORT. Reading a table after a write, and the records held per port. -/

namespace Sys2Proof

/-- Reading a table is reading its vector. -/
theorem Tab.at_eq {n : Nat} {α : Type} (t : Tab n α) (i : Fin n) : t.at i = t[i.val] := rfl

theorem Tab.at_put {n : Nat} {α : Type} (t : Tab n α) (i j : Fin n) (x : α) :
    (t.put i x).at j = if j = i then x else t.at j := by
  by_cases h : j = i
  · subst h; simp [Tab.at_eq, Tab.put]
  · simp [Tab.at_eq, Tab.put, h, Fin.val_inj, Ne.symm h]

@[simp] theorem Tab.at_put_same {n : Nat} {α : Type} (t : Tab n α) (i : Fin n) (x : α) : (t.put i x).at i = x := by
  simp [Tab.at_put]

@[simp] theorem Tab.at_put_ne {n : Nat} {α : Type} (t : Tab n α) {i j : Fin n} (x : α) (h : j ≠ i) :
    (t.put i x).at j = t.at j := by simp [Tab.at_put, h]

@[simp] theorem Tab.at_update {n : Nat} {α : Type} (f : Fin n → α → α) (t : Tab n α) (i : Fin n) :
    (t.update f).at i = f i (t.at i) := by
  simp [Tab.at_eq, Tab.update]

@[simp] theorem Tab.at_replicate {n : Nat} {α : Type} (x : α) (i : Fin n) : (Tab.replicate n x).at i = x := by
  simp [Tab.at, Tab.replicate, Vector.get]

/-- Two tables with the same entries are the same table. -/
theorem Tab.ext_at {n : Nat} {α : Type} {t u : Tab n α} (h : ∀ i, t.at i = u.at i) : t = u := by
  apply Vector.ext
  intro i hi
  simpa [Tab.at, Vector.get] using h ⟨i, hi⟩

/-- Writing back what an entry holds changes nothing. -/
@[simp] theorem Tab.put_at {n : Nat} {α : Type} (t : Tab n α) (i : Fin n) : t.put i (t.at i) = t := by
  apply Tab.ext_at
  intro j
  by_cases h : j = i <;> simp [h]

@[simp] theorem PerPort.at_put_same {α : Type} (t : PerPort α) (p : Port) (x : α) : (t.put p x).at p = x := by
  cases p <;> rfl

theorem PerPort.at_put {α : Type} (t : PerPort α) (p q : Port) (x : α) :
    (t.put p x).at q = if q = p then x else t.at q := by cases p <;> cases q <;> rfl

@[simp] theorem PerPort.at_put_ne {α : Type} (t : PerPort α) {p q : Port} (x : α) (h : q ≠ p) :
    (t.put p x).at q = t.at q := by simp [PerPort.at_put, h]

@[simp] theorem PerPort.put_at {α : Type} (t : PerPort α) (p : Port) : t.put p (t.at p) = t := by cases p <;> rfl

@[simp] theorem Port.other_other (p : Port) : p.other.other = p := by cases p <;> rfl

@[simp] theorem Port.other_ne (p : Port) : p.other ≠ p := by cases p <;> decide

@[simp] theorem Port.ne_other (p : Port) : p ≠ p.other := by cases p <;> decide

/-- A port that is not p is the other one. -/
theorem Port.eq_other_of_ne {p q : Port} (h : q ≠ p) : q = p.other := by cases p <;> cases q <;> simp_all [Port.other]

/-- Membership after an ascending insertion: the new number, or one of the old ones. -/
@[simp] theorem mem_insertAscending {n : Nat} (x y : Fin n) (xs : List (Fin n)) :
    y ∈ insertAscending x xs ↔ y = x ∨ y ∈ xs := by
  induction xs with
  | nil => simp [insertAscending]
  | cons z zs ih =>
    unfold insertAscending
    split
    · rename_i h; subst h; simp
    · split
      · simp
      · simp [ih]; tauto

/-- An ascending list without duplicates stays one (R110). -/
theorem insertAscending_sorted {n : Nat} (x : Fin n) (xs : List (Fin n)) (h : xs.Pairwise (· < ·)) :
    (insertAscending x xs).Pairwise (· < ·) := by
  induction xs with
  | nil => simp [insertAscending]
  | cons z zs ih =>
    rw [List.pairwise_cons] at h
    unfold insertAscending
    split
    · exact List.pairwise_cons.mpr h
    · split
      · rename_i hlt
        refine List.pairwise_cons.mpr ⟨?_, List.pairwise_cons.mpr h⟩
        intro y hy
        rcases List.mem_cons.mp hy with rfl | hy
        · exact hlt
        · exact lt_trans hlt (h.1 y hy)
      · rename_i hne hnlt
        refine List.pairwise_cons.mpr ⟨?_, ih h.2⟩
        intro y hy
        rcases (mem_insertAscending x y zs).mp hy with rfl | hy
        · exact lt_of_le_of_ne (not_lt.mp hnlt) (Ne.symm hne)
        · exact h.1 y hy

end Sys2Proof
end

