-- ==== Sys2Proof/Laws/State.lean ====
section
/-! SUPPORT. One lemma per field per update of the state, so that no later proof unfolds a record update. -/

namespace Sys2Proof.Machine

open Sys2Proof

@[simp] theorem State.putLine_time (s : State) (l : LineId) (r : LineRec) : (s.putLine l r).time = s.time := rfl
@[simp] theorem State.putLine_now (s : State) (l : LineId) (r : LineRec) : (s.putLine l r).now = s.now := rfl
@[simp] theorem State.putLine_resetCause (s : State) (l : LineId) (r : LineRec) : (s.putLine l r).resetCause = s.resetCause := rfl
@[simp] theorem State.putLine_resetCount (s : State) (l : LineId) (r : LineRec) : (s.putLine l r).resetCount = s.resetCount := rfl
@[simp] theorem State.putLine_resetPeriod (s : State) (l : LineId) (r : LineRec) : (s.putLine l r).resetPeriod = s.resetPeriod := rfl
@[simp] theorem State.putLine_rstnLow (s : State) (l : LineId) (r : LineRec) : (s.putLine l r).rstnLow = s.rstnLow := rfl
@[simp] theorem State.putLine_dipLow (s : State) (l : LineId) (r : LineRec) : (s.putLine l r).dipLow = s.dipLow := rfl
@[simp] theorem State.putLine_powerLow (s : State) (l : LineId) (r : LineRec) : (s.putLine l r).powerLow = s.powerLow := rfl
@[simp] theorem State.putLine_lines (s : State) (l : LineId) (r : LineRec) : (s.putLine l r).lines = s.lines.put l r := rfl
@[simp] theorem State.putLine_sets (s : State) (l : LineId) (r : LineRec) : (s.putLine l r).sets = s.sets := rfl
@[simp] theorem State.putLine_outputs (s : State) (l : LineId) (r : LineRec) : (s.putLine l r).outputs = s.outputs := rfl
@[simp] theorem State.putLine_sessions (s : State) (l : LineId) (r : LineRec) : (s.putLine l r).sessions = s.sessions := rfl
@[simp] theorem State.putLine_journals (s : State) (l : LineId) (r : LineRec) : (s.putLine l r).journals = s.journals := rfl
@[simp] theorem State.putLine_engines (s : State) (l : LineId) (r : LineRec) : (s.putLine l r).engines = s.engines := rfl
@[simp] theorem State.putLine_ports (s : State) (l : LineId) (r : LineRec) : (s.putLine l r).ports = s.ports := rfl
@[simp] theorem State.putLine_choice (s : State) (l : LineId) (r : LineRec) : (s.putLine l r).choice = s.choice := rfl
@[simp] theorem State.putLine_pending (s : State) (l : LineId) (r : LineRec) : (s.putLine l r).pending = s.pending := rfl

@[simp] theorem State.putSet_time (s : State) (w : SetId) (ws : Option WatchSet) : (s.putSet w ws).time = s.time := rfl
@[simp] theorem State.putSet_now (s : State) (w : SetId) (ws : Option WatchSet) : (s.putSet w ws).now = s.now := rfl
@[simp] theorem State.putSet_resetCause (s : State) (w : SetId) (ws : Option WatchSet) : (s.putSet w ws).resetCause = s.resetCause := rfl
@[simp] theorem State.putSet_resetCount (s : State) (w : SetId) (ws : Option WatchSet) : (s.putSet w ws).resetCount = s.resetCount := rfl
@[simp] theorem State.putSet_resetPeriod (s : State) (w : SetId) (ws : Option WatchSet) : (s.putSet w ws).resetPeriod = s.resetPeriod := rfl
@[simp] theorem State.putSet_rstnLow (s : State) (w : SetId) (ws : Option WatchSet) : (s.putSet w ws).rstnLow = s.rstnLow := rfl
@[simp] theorem State.putSet_dipLow (s : State) (w : SetId) (ws : Option WatchSet) : (s.putSet w ws).dipLow = s.dipLow := rfl
@[simp] theorem State.putSet_powerLow (s : State) (w : SetId) (ws : Option WatchSet) : (s.putSet w ws).powerLow = s.powerLow := rfl
@[simp] theorem State.putSet_lines (s : State) (w : SetId) (ws : Option WatchSet) : (s.putSet w ws).lines = s.lines := rfl
@[simp] theorem State.putSet_sets (s : State) (w : SetId) (ws : Option WatchSet) : (s.putSet w ws).sets = s.sets.put w ws := rfl
@[simp] theorem State.putSet_outputs (s : State) (w : SetId) (ws : Option WatchSet) : (s.putSet w ws).outputs = s.outputs := rfl
@[simp] theorem State.putSet_sessions (s : State) (w : SetId) (ws : Option WatchSet) : (s.putSet w ws).sessions = s.sessions := rfl
@[simp] theorem State.putSet_journals (s : State) (w : SetId) (ws : Option WatchSet) : (s.putSet w ws).journals = s.journals := rfl
@[simp] theorem State.putSet_engines (s : State) (w : SetId) (ws : Option WatchSet) : (s.putSet w ws).engines = s.engines := rfl
@[simp] theorem State.putSet_ports (s : State) (w : SetId) (ws : Option WatchSet) : (s.putSet w ws).ports = s.ports := rfl
@[simp] theorem State.putSet_choice (s : State) (w : SetId) (ws : Option WatchSet) : (s.putSet w ws).choice = s.choice := rfl
@[simp] theorem State.putSet_pending (s : State) (w : SetId) (ws : Option WatchSet) : (s.putSet w ws).pending = s.pending := rfl

@[simp] theorem State.putOutput_time (s : State) (o : OutId) (r : Output) : (s.putOutput o r).time = s.time := rfl
@[simp] theorem State.putOutput_now (s : State) (o : OutId) (r : Output) : (s.putOutput o r).now = s.now := rfl
@[simp] theorem State.putOutput_resetCause (s : State) (o : OutId) (r : Output) : (s.putOutput o r).resetCause = s.resetCause := rfl
@[simp] theorem State.putOutput_resetCount (s : State) (o : OutId) (r : Output) : (s.putOutput o r).resetCount = s.resetCount := rfl
@[simp] theorem State.putOutput_resetPeriod (s : State) (o : OutId) (r : Output) : (s.putOutput o r).resetPeriod = s.resetPeriod := rfl
@[simp] theorem State.putOutput_rstnLow (s : State) (o : OutId) (r : Output) : (s.putOutput o r).rstnLow = s.rstnLow := rfl
@[simp] theorem State.putOutput_dipLow (s : State) (o : OutId) (r : Output) : (s.putOutput o r).dipLow = s.dipLow := rfl
@[simp] theorem State.putOutput_powerLow (s : State) (o : OutId) (r : Output) : (s.putOutput o r).powerLow = s.powerLow := rfl
@[simp] theorem State.putOutput_lines (s : State) (o : OutId) (r : Output) : (s.putOutput o r).lines = s.lines := rfl
@[simp] theorem State.putOutput_sets (s : State) (o : OutId) (r : Output) : (s.putOutput o r).sets = s.sets := rfl
@[simp] theorem State.putOutput_outputs (s : State) (o : OutId) (r : Output) : (s.putOutput o r).outputs = s.outputs.put o r := rfl
@[simp] theorem State.putOutput_sessions (s : State) (o : OutId) (r : Output) : (s.putOutput o r).sessions = s.sessions := rfl
@[simp] theorem State.putOutput_journals (s : State) (o : OutId) (r : Output) : (s.putOutput o r).journals = s.journals := rfl
@[simp] theorem State.putOutput_engines (s : State) (o : OutId) (r : Output) : (s.putOutput o r).engines = s.engines := rfl
@[simp] theorem State.putOutput_ports (s : State) (o : OutId) (r : Output) : (s.putOutput o r).ports = s.ports := rfl
@[simp] theorem State.putOutput_choice (s : State) (o : OutId) (r : Output) : (s.putOutput o r).choice = s.choice := rfl
@[simp] theorem State.putOutput_pending (s : State) (o : OutId) (r : Output) : (s.putOutput o r).pending = s.pending := rfl

@[simp] theorem State.putSession_time (s : State) (p : Port) (r : Session) : (s.putSession p r).time = s.time := rfl
@[simp] theorem State.putSession_now (s : State) (p : Port) (r : Session) : (s.putSession p r).now = s.now := rfl
@[simp] theorem State.putSession_resetCause (s : State) (p : Port) (r : Session) : (s.putSession p r).resetCause = s.resetCause := rfl
@[simp] theorem State.putSession_resetCount (s : State) (p : Port) (r : Session) : (s.putSession p r).resetCount = s.resetCount := rfl
@[simp] theorem State.putSession_resetPeriod (s : State) (p : Port) (r : Session) : (s.putSession p r).resetPeriod = s.resetPeriod := rfl
@[simp] theorem State.putSession_rstnLow (s : State) (p : Port) (r : Session) : (s.putSession p r).rstnLow = s.rstnLow := rfl
@[simp] theorem State.putSession_dipLow (s : State) (p : Port) (r : Session) : (s.putSession p r).dipLow = s.dipLow := rfl
@[simp] theorem State.putSession_powerLow (s : State) (p : Port) (r : Session) : (s.putSession p r).powerLow = s.powerLow := rfl
@[simp] theorem State.putSession_lines (s : State) (p : Port) (r : Session) : (s.putSession p r).lines = s.lines := rfl
@[simp] theorem State.putSession_sets (s : State) (p : Port) (r : Session) : (s.putSession p r).sets = s.sets := rfl
@[simp] theorem State.putSession_outputs (s : State) (p : Port) (r : Session) : (s.putSession p r).outputs = s.outputs := rfl
@[simp] theorem State.putSession_sessions (s : State) (p : Port) (r : Session) : (s.putSession p r).sessions = s.sessions.put p r := rfl
@[simp] theorem State.putSession_journals (s : State) (p : Port) (r : Session) : (s.putSession p r).journals = s.journals := rfl
@[simp] theorem State.putSession_engines (s : State) (p : Port) (r : Session) : (s.putSession p r).engines = s.engines := rfl
@[simp] theorem State.putSession_ports (s : State) (p : Port) (r : Session) : (s.putSession p r).ports = s.ports := rfl
@[simp] theorem State.putSession_choice (s : State) (p : Port) (r : Session) : (s.putSession p r).choice = s.choice := rfl
@[simp] theorem State.putSession_pending (s : State) (p : Port) (r : Session) : (s.putSession p r).pending = s.pending := rfl

@[simp] theorem State.putJournal_time (s : State) (p : Port) (j : Journal) : (s.putJournal p j).time = s.time := rfl
@[simp] theorem State.putJournal_now (s : State) (p : Port) (j : Journal) : (s.putJournal p j).now = s.now := rfl
@[simp] theorem State.putJournal_resetCause (s : State) (p : Port) (j : Journal) : (s.putJournal p j).resetCause = s.resetCause := rfl
@[simp] theorem State.putJournal_resetCount (s : State) (p : Port) (j : Journal) : (s.putJournal p j).resetCount = s.resetCount := rfl
@[simp] theorem State.putJournal_resetPeriod (s : State) (p : Port) (j : Journal) : (s.putJournal p j).resetPeriod = s.resetPeriod := rfl
@[simp] theorem State.putJournal_rstnLow (s : State) (p : Port) (j : Journal) : (s.putJournal p j).rstnLow = s.rstnLow := rfl
@[simp] theorem State.putJournal_dipLow (s : State) (p : Port) (j : Journal) : (s.putJournal p j).dipLow = s.dipLow := rfl
@[simp] theorem State.putJournal_powerLow (s : State) (p : Port) (j : Journal) : (s.putJournal p j).powerLow = s.powerLow := rfl
@[simp] theorem State.putJournal_lines (s : State) (p : Port) (j : Journal) : (s.putJournal p j).lines = s.lines := rfl
@[simp] theorem State.putJournal_sets (s : State) (p : Port) (j : Journal) : (s.putJournal p j).sets = s.sets := rfl
@[simp] theorem State.putJournal_outputs (s : State) (p : Port) (j : Journal) : (s.putJournal p j).outputs = s.outputs := rfl
@[simp] theorem State.putJournal_sessions (s : State) (p : Port) (j : Journal) : (s.putJournal p j).sessions = s.sessions := rfl
@[simp] theorem State.putJournal_journals (s : State) (p : Port) (j : Journal) : (s.putJournal p j).journals = s.journals.put p j := rfl
@[simp] theorem State.putJournal_engines (s : State) (p : Port) (j : Journal) : (s.putJournal p j).engines = s.engines := rfl
@[simp] theorem State.putJournal_ports (s : State) (p : Port) (j : Journal) : (s.putJournal p j).ports = s.ports := rfl
@[simp] theorem State.putJournal_choice (s : State) (p : Port) (j : Journal) : (s.putJournal p j).choice = s.choice := rfl
@[simp] theorem State.putJournal_pending (s : State) (p : Port) (j : Journal) : (s.putJournal p j).pending = s.pending := rfl

@[simp] theorem State.putEngine_time (s : State) (p : Port) (e : Engine) : (s.putEngine p e).time = s.time := rfl
@[simp] theorem State.putEngine_now (s : State) (p : Port) (e : Engine) : (s.putEngine p e).now = s.now := rfl
@[simp] theorem State.putEngine_resetCause (s : State) (p : Port) (e : Engine) : (s.putEngine p e).resetCause = s.resetCause := rfl
@[simp] theorem State.putEngine_resetCount (s : State) (p : Port) (e : Engine) : (s.putEngine p e).resetCount = s.resetCount := rfl
@[simp] theorem State.putEngine_resetPeriod (s : State) (p : Port) (e : Engine) : (s.putEngine p e).resetPeriod = s.resetPeriod := rfl
@[simp] theorem State.putEngine_rstnLow (s : State) (p : Port) (e : Engine) : (s.putEngine p e).rstnLow = s.rstnLow := rfl
@[simp] theorem State.putEngine_dipLow (s : State) (p : Port) (e : Engine) : (s.putEngine p e).dipLow = s.dipLow := rfl
@[simp] theorem State.putEngine_powerLow (s : State) (p : Port) (e : Engine) : (s.putEngine p e).powerLow = s.powerLow := rfl
@[simp] theorem State.putEngine_lines (s : State) (p : Port) (e : Engine) : (s.putEngine p e).lines = s.lines := rfl
@[simp] theorem State.putEngine_sets (s : State) (p : Port) (e : Engine) : (s.putEngine p e).sets = s.sets := rfl
@[simp] theorem State.putEngine_outputs (s : State) (p : Port) (e : Engine) : (s.putEngine p e).outputs = s.outputs := rfl
@[simp] theorem State.putEngine_sessions (s : State) (p : Port) (e : Engine) : (s.putEngine p e).sessions = s.sessions := rfl
@[simp] theorem State.putEngine_journals (s : State) (p : Port) (e : Engine) : (s.putEngine p e).journals = s.journals := rfl
@[simp] theorem State.putEngine_engines (s : State) (p : Port) (e : Engine) : (s.putEngine p e).engines = s.engines.put p e := rfl
@[simp] theorem State.putEngine_ports (s : State) (p : Port) (e : Engine) : (s.putEngine p e).ports = s.ports := rfl
@[simp] theorem State.putEngine_choice (s : State) (p : Port) (e : Engine) : (s.putEngine p e).choice = s.choice := rfl
@[simp] theorem State.putEngine_pending (s : State) (p : Port) (e : Engine) : (s.putEngine p e).pending = s.pending := rfl

@[simp] theorem State.putPort_time (s : State) (p : Port) (r : LinkPort) : (s.putPort p r).time = s.time := rfl
@[simp] theorem State.putPort_now (s : State) (p : Port) (r : LinkPort) : (s.putPort p r).now = s.now := rfl
@[simp] theorem State.putPort_resetCause (s : State) (p : Port) (r : LinkPort) : (s.putPort p r).resetCause = s.resetCause := rfl
@[simp] theorem State.putPort_resetCount (s : State) (p : Port) (r : LinkPort) : (s.putPort p r).resetCount = s.resetCount := rfl
@[simp] theorem State.putPort_resetPeriod (s : State) (p : Port) (r : LinkPort) : (s.putPort p r).resetPeriod = s.resetPeriod := rfl
@[simp] theorem State.putPort_rstnLow (s : State) (p : Port) (r : LinkPort) : (s.putPort p r).rstnLow = s.rstnLow := rfl
@[simp] theorem State.putPort_dipLow (s : State) (p : Port) (r : LinkPort) : (s.putPort p r).dipLow = s.dipLow := rfl
@[simp] theorem State.putPort_powerLow (s : State) (p : Port) (r : LinkPort) : (s.putPort p r).powerLow = s.powerLow := rfl
@[simp] theorem State.putPort_lines (s : State) (p : Port) (r : LinkPort) : (s.putPort p r).lines = s.lines := rfl
@[simp] theorem State.putPort_sets (s : State) (p : Port) (r : LinkPort) : (s.putPort p r).sets = s.sets := rfl
@[simp] theorem State.putPort_outputs (s : State) (p : Port) (r : LinkPort) : (s.putPort p r).outputs = s.outputs := rfl
@[simp] theorem State.putPort_sessions (s : State) (p : Port) (r : LinkPort) : (s.putPort p r).sessions = s.sessions := rfl
@[simp] theorem State.putPort_journals (s : State) (p : Port) (r : LinkPort) : (s.putPort p r).journals = s.journals := rfl
@[simp] theorem State.putPort_engines (s : State) (p : Port) (r : LinkPort) : (s.putPort p r).engines = s.engines := rfl
@[simp] theorem State.putPort_ports (s : State) (p : Port) (r : LinkPort) : (s.putPort p r).ports = s.ports.put p r := rfl
@[simp] theorem State.putPort_choice (s : State) (p : Port) (r : LinkPort) : (s.putPort p r).choice = s.choice := rfl
@[simp] theorem State.putPort_pending (s : State) (p : Port) (r : LinkPort) : (s.putPort p r).pending = s.pending := rfl

@[simp] theorem State.updateLines_time (s : State) (f : LineId → LineRec → LineRec) : (s.updateLines f).time = s.time := rfl
@[simp] theorem State.updateLines_now (s : State) (f : LineId → LineRec → LineRec) : (s.updateLines f).now = s.now := rfl
@[simp] theorem State.updateLines_resetCause (s : State) (f : LineId → LineRec → LineRec) : (s.updateLines f).resetCause = s.resetCause := rfl
@[simp] theorem State.updateLines_resetCount (s : State) (f : LineId → LineRec → LineRec) : (s.updateLines f).resetCount = s.resetCount := rfl
@[simp] theorem State.updateLines_resetPeriod (s : State) (f : LineId → LineRec → LineRec) : (s.updateLines f).resetPeriod = s.resetPeriod := rfl
@[simp] theorem State.updateLines_rstnLow (s : State) (f : LineId → LineRec → LineRec) : (s.updateLines f).rstnLow = s.rstnLow := rfl
@[simp] theorem State.updateLines_dipLow (s : State) (f : LineId → LineRec → LineRec) : (s.updateLines f).dipLow = s.dipLow := rfl
@[simp] theorem State.updateLines_powerLow (s : State) (f : LineId → LineRec → LineRec) : (s.updateLines f).powerLow = s.powerLow := rfl
@[simp] theorem State.updateLines_lines (s : State) (f : LineId → LineRec → LineRec) : (s.updateLines f).lines = s.lines.update f := rfl
@[simp] theorem State.updateLines_sets (s : State) (f : LineId → LineRec → LineRec) : (s.updateLines f).sets = s.sets := rfl
@[simp] theorem State.updateLines_outputs (s : State) (f : LineId → LineRec → LineRec) : (s.updateLines f).outputs = s.outputs := rfl
@[simp] theorem State.updateLines_sessions (s : State) (f : LineId → LineRec → LineRec) : (s.updateLines f).sessions = s.sessions := rfl
@[simp] theorem State.updateLines_journals (s : State) (f : LineId → LineRec → LineRec) : (s.updateLines f).journals = s.journals := rfl
@[simp] theorem State.updateLines_engines (s : State) (f : LineId → LineRec → LineRec) : (s.updateLines f).engines = s.engines := rfl
@[simp] theorem State.updateLines_ports (s : State) (f : LineId → LineRec → LineRec) : (s.updateLines f).ports = s.ports := rfl
@[simp] theorem State.updateLines_choice (s : State) (f : LineId → LineRec → LineRec) : (s.updateLines f).choice = s.choice := rfl
@[simp] theorem State.updateLines_pending (s : State) (f : LineId → LineRec → LineRec) : (s.updateLines f).pending = s.pending := rfl

@[simp] theorem State.updateSets_time (s : State) (f : SetId → Option WatchSet → Option WatchSet) : (s.updateSets f).time = s.time := rfl
@[simp] theorem State.updateSets_now (s : State) (f : SetId → Option WatchSet → Option WatchSet) : (s.updateSets f).now = s.now := rfl
@[simp] theorem State.updateSets_resetCause (s : State) (f : SetId → Option WatchSet → Option WatchSet) : (s.updateSets f).resetCause = s.resetCause := rfl
@[simp] theorem State.updateSets_resetCount (s : State) (f : SetId → Option WatchSet → Option WatchSet) : (s.updateSets f).resetCount = s.resetCount := rfl
@[simp] theorem State.updateSets_resetPeriod (s : State) (f : SetId → Option WatchSet → Option WatchSet) : (s.updateSets f).resetPeriod = s.resetPeriod := rfl
@[simp] theorem State.updateSets_rstnLow (s : State) (f : SetId → Option WatchSet → Option WatchSet) : (s.updateSets f).rstnLow = s.rstnLow := rfl
@[simp] theorem State.updateSets_dipLow (s : State) (f : SetId → Option WatchSet → Option WatchSet) : (s.updateSets f).dipLow = s.dipLow := rfl
@[simp] theorem State.updateSets_powerLow (s : State) (f : SetId → Option WatchSet → Option WatchSet) : (s.updateSets f).powerLow = s.powerLow := rfl
@[simp] theorem State.updateSets_lines (s : State) (f : SetId → Option WatchSet → Option WatchSet) : (s.updateSets f).lines = s.lines := rfl
@[simp] theorem State.updateSets_sets (s : State) (f : SetId → Option WatchSet → Option WatchSet) : (s.updateSets f).sets = s.sets.update f := rfl
@[simp] theorem State.updateSets_outputs (s : State) (f : SetId → Option WatchSet → Option WatchSet) : (s.updateSets f).outputs = s.outputs := rfl
@[simp] theorem State.updateSets_sessions (s : State) (f : SetId → Option WatchSet → Option WatchSet) : (s.updateSets f).sessions = s.sessions := rfl
@[simp] theorem State.updateSets_journals (s : State) (f : SetId → Option WatchSet → Option WatchSet) : (s.updateSets f).journals = s.journals := rfl
@[simp] theorem State.updateSets_engines (s : State) (f : SetId → Option WatchSet → Option WatchSet) : (s.updateSets f).engines = s.engines := rfl
@[simp] theorem State.updateSets_ports (s : State) (f : SetId → Option WatchSet → Option WatchSet) : (s.updateSets f).ports = s.ports := rfl
@[simp] theorem State.updateSets_choice (s : State) (f : SetId → Option WatchSet → Option WatchSet) : (s.updateSets f).choice = s.choice := rfl
@[simp] theorem State.updateSets_pending (s : State) (f : SetId → Option WatchSet → Option WatchSet) : (s.updateSets f).pending = s.pending := rfl

@[simp] theorem State.updateOutputs_time (s : State) (f : OutId → Output → Output) : (s.updateOutputs f).time = s.time := rfl
@[simp] theorem State.updateOutputs_now (s : State) (f : OutId → Output → Output) : (s.updateOutputs f).now = s.now := rfl
@[simp] theorem State.updateOutputs_resetCause (s : State) (f : OutId → Output → Output) : (s.updateOutputs f).resetCause = s.resetCause := rfl
@[simp] theorem State.updateOutputs_resetCount (s : State) (f : OutId → Output → Output) : (s.updateOutputs f).resetCount = s.resetCount := rfl
@[simp] theorem State.updateOutputs_resetPeriod (s : State) (f : OutId → Output → Output) : (s.updateOutputs f).resetPeriod = s.resetPeriod := rfl
@[simp] theorem State.updateOutputs_rstnLow (s : State) (f : OutId → Output → Output) : (s.updateOutputs f).rstnLow = s.rstnLow := rfl
@[simp] theorem State.updateOutputs_dipLow (s : State) (f : OutId → Output → Output) : (s.updateOutputs f).dipLow = s.dipLow := rfl
@[simp] theorem State.updateOutputs_powerLow (s : State) (f : OutId → Output → Output) : (s.updateOutputs f).powerLow = s.powerLow := rfl
@[simp] theorem State.updateOutputs_lines (s : State) (f : OutId → Output → Output) : (s.updateOutputs f).lines = s.lines := rfl
@[simp] theorem State.updateOutputs_sets (s : State) (f : OutId → Output → Output) : (s.updateOutputs f).sets = s.sets := rfl
@[simp] theorem State.updateOutputs_outputs (s : State) (f : OutId → Output → Output) : (s.updateOutputs f).outputs = s.outputs.update f := rfl
@[simp] theorem State.updateOutputs_sessions (s : State) (f : OutId → Output → Output) : (s.updateOutputs f).sessions = s.sessions := rfl
@[simp] theorem State.updateOutputs_journals (s : State) (f : OutId → Output → Output) : (s.updateOutputs f).journals = s.journals := rfl
@[simp] theorem State.updateOutputs_engines (s : State) (f : OutId → Output → Output) : (s.updateOutputs f).engines = s.engines := rfl
@[simp] theorem State.updateOutputs_ports (s : State) (f : OutId → Output → Output) : (s.updateOutputs f).ports = s.ports := rfl
@[simp] theorem State.updateOutputs_choice (s : State) (f : OutId → Output → Output) : (s.updateOutputs f).choice = s.choice := rfl
@[simp] theorem State.updateOutputs_pending (s : State) (f : OutId → Output → Output) : (s.updateOutputs f).pending = s.pending := rfl

@[simp] theorem State.popRequest_time (s : State) (p : Port) : (s.popRequest p).time = s.time := rfl
@[simp] theorem State.popRequest_now (s : State) (p : Port) : (s.popRequest p).now = s.now := rfl
@[simp] theorem State.popRequest_resetCause (s : State) (p : Port) : (s.popRequest p).resetCause = s.resetCause := rfl
@[simp] theorem State.popRequest_resetCount (s : State) (p : Port) : (s.popRequest p).resetCount = s.resetCount := rfl
@[simp] theorem State.popRequest_resetPeriod (s : State) (p : Port) : (s.popRequest p).resetPeriod = s.resetPeriod := rfl
@[simp] theorem State.popRequest_rstnLow (s : State) (p : Port) : (s.popRequest p).rstnLow = s.rstnLow := rfl
@[simp] theorem State.popRequest_dipLow (s : State) (p : Port) : (s.popRequest p).dipLow = s.dipLow := rfl
@[simp] theorem State.popRequest_powerLow (s : State) (p : Port) : (s.popRequest p).powerLow = s.powerLow := rfl
@[simp] theorem State.popRequest_lines (s : State) (p : Port) : (s.popRequest p).lines = s.lines := rfl
@[simp] theorem State.popRequest_sets (s : State) (p : Port) : (s.popRequest p).sets = s.sets := rfl
@[simp] theorem State.popRequest_outputs (s : State) (p : Port) : (s.popRequest p).outputs = s.outputs := rfl
@[simp] theorem State.popRequest_sessions (s : State) (p : Port) : (s.popRequest p).sessions = s.sessions := rfl
@[simp] theorem State.popRequest_journals (s : State) (p : Port) : (s.popRequest p).journals = s.journals := rfl
@[simp] theorem State.popRequest_engines (s : State) (p : Port) : (s.popRequest p).engines = s.engines := rfl
@[simp] theorem State.popRequest_ports (s : State) (p : Port) : (s.popRequest p).ports = s.ports.put p { s.ports.at p with requests := (s.ports.at p).requests.tail } := rfl
@[simp] theorem State.popRequest_choice (s : State) (p : Port) : (s.popRequest p).choice = s.choice := rfl
@[simp] theorem State.popRequest_pending (s : State) (p : Port) : (s.popRequest p).pending = s.pending := rfl

@[simp] theorem State.raiseStatus_time (s : State) (p : Port) : (s.raiseStatus p).time = s.time := rfl
@[simp] theorem State.raiseStatus_now (s : State) (p : Port) : (s.raiseStatus p).now = s.now := rfl
@[simp] theorem State.raiseStatus_resetCause (s : State) (p : Port) : (s.raiseStatus p).resetCause = s.resetCause := rfl
@[simp] theorem State.raiseStatus_resetCount (s : State) (p : Port) : (s.raiseStatus p).resetCount = s.resetCount := rfl
@[simp] theorem State.raiseStatus_resetPeriod (s : State) (p : Port) : (s.raiseStatus p).resetPeriod = s.resetPeriod := rfl
@[simp] theorem State.raiseStatus_rstnLow (s : State) (p : Port) : (s.raiseStatus p).rstnLow = s.rstnLow := rfl
@[simp] theorem State.raiseStatus_dipLow (s : State) (p : Port) : (s.raiseStatus p).dipLow = s.dipLow := rfl
@[simp] theorem State.raiseStatus_powerLow (s : State) (p : Port) : (s.raiseStatus p).powerLow = s.powerLow := rfl
@[simp] theorem State.raiseStatus_lines (s : State) (p : Port) : (s.raiseStatus p).lines = s.lines := rfl
@[simp] theorem State.raiseStatus_sets (s : State) (p : Port) : (s.raiseStatus p).sets = s.sets := rfl
@[simp] theorem State.raiseStatus_outputs (s : State) (p : Port) : (s.raiseStatus p).outputs = s.outputs := rfl
@[simp] theorem State.raiseStatus_sessions (s : State) (p : Port) : (s.raiseStatus p).sessions = s.sessions := rfl
@[simp] theorem State.raiseStatus_journals (s : State) (p : Port) : (s.raiseStatus p).journals = s.journals := rfl
@[simp] theorem State.raiseStatus_engines (s : State) (p : Port) : (s.raiseStatus p).engines = s.engines.put p { s.engines.at p with statusChanged := true } := rfl
@[simp] theorem State.raiseStatus_ports (s : State) (p : Port) : (s.raiseStatus p).ports = s.ports := rfl
@[simp] theorem State.raiseStatus_choice (s : State) (p : Port) : (s.raiseStatus p).choice = s.choice := rfl
@[simp] theorem State.raiseStatus_pending (s : State) (p : Port) : (s.raiseStatus p).pending = s.pending := rfl

@[simp] theorem State.append_time (s : State) (p : Port) (r : Rec) : (s.append p r).time = s.time := rfl
@[simp] theorem State.append_now (s : State) (p : Port) (r : Rec) : (s.append p r).now = s.now := rfl
@[simp] theorem State.append_resetCause (s : State) (p : Port) (r : Rec) : (s.append p r).resetCause = s.resetCause := rfl
@[simp] theorem State.append_resetCount (s : State) (p : Port) (r : Rec) : (s.append p r).resetCount = s.resetCount := rfl
@[simp] theorem State.append_resetPeriod (s : State) (p : Port) (r : Rec) : (s.append p r).resetPeriod = s.resetPeriod := rfl
@[simp] theorem State.append_rstnLow (s : State) (p : Port) (r : Rec) : (s.append p r).rstnLow = s.rstnLow := rfl
@[simp] theorem State.append_dipLow (s : State) (p : Port) (r : Rec) : (s.append p r).dipLow = s.dipLow := rfl
@[simp] theorem State.append_powerLow (s : State) (p : Port) (r : Rec) : (s.append p r).powerLow = s.powerLow := rfl
@[simp] theorem State.append_lines (s : State) (p : Port) (r : Rec) : (s.append p r).lines = s.lines := rfl
@[simp] theorem State.append_sets (s : State) (p : Port) (r : Rec) : (s.append p r).sets = s.sets := rfl
@[simp] theorem State.append_outputs (s : State) (p : Port) (r : Rec) : (s.append p r).outputs = s.outputs := rfl
@[simp] theorem State.append_sessions (s : State) (p : Port) (r : Rec) : (s.append p r).sessions = s.sessions := rfl
@[simp] theorem State.append_journals (s : State) (p : Port) (r : Rec) : (s.append p r).journals = s.journals.put p { s.journals.at p with unsent := (s.journals.at p).unsent ++ [r] } := rfl
@[simp] theorem State.append_engines (s : State) (p : Port) (r : Rec) : (s.append p r).engines = s.engines := rfl
@[simp] theorem State.append_ports (s : State) (p : Port) (r : Rec) : (s.append p r).ports = s.ports := rfl
@[simp] theorem State.append_choice (s : State) (p : Port) (r : Rec) : (s.append p r).choice = s.choice := rfl
@[simp] theorem State.append_pending (s : State) (p : Port) (r : Rec) : (s.append p r).pending = s.pending := rfl

@[simp] theorem State.respond_time (s : State) (p : Port) (kind tag : Byte) (st : Status) (rs : List Byte) :
    (s.respond p kind tag st rs).time = s.time := rfl
@[simp] theorem State.respond_now (s : State) (p : Port) (kind tag : Byte) (st : Status) (rs : List Byte) :
    (s.respond p kind tag st rs).now = s.now := rfl
@[simp] theorem State.respond_resetCause (s : State) (p : Port) (kind tag : Byte) (st : Status) (rs : List Byte) :
    (s.respond p kind tag st rs).resetCause = s.resetCause := rfl
@[simp] theorem State.respond_resetCount (s : State) (p : Port) (kind tag : Byte) (st : Status) (rs : List Byte) :
    (s.respond p kind tag st rs).resetCount = s.resetCount := rfl
@[simp] theorem State.respond_resetPeriod (s : State) (p : Port) (kind tag : Byte) (st : Status) (rs : List Byte) :
    (s.respond p kind tag st rs).resetPeriod = s.resetPeriod := rfl
@[simp] theorem State.respond_rstnLow (s : State) (p : Port) (kind tag : Byte) (st : Status) (rs : List Byte) :
    (s.respond p kind tag st rs).rstnLow = s.rstnLow := rfl
@[simp] theorem State.respond_dipLow (s : State) (p : Port) (kind tag : Byte) (st : Status) (rs : List Byte) :
    (s.respond p kind tag st rs).dipLow = s.dipLow := rfl
@[simp] theorem State.respond_powerLow (s : State) (p : Port) (kind tag : Byte) (st : Status) (rs : List Byte) :
    (s.respond p kind tag st rs).powerLow = s.powerLow := rfl
@[simp] theorem State.respond_lines (s : State) (p : Port) (kind tag : Byte) (st : Status) (rs : List Byte) :
    (s.respond p kind tag st rs).lines = s.lines := rfl
@[simp] theorem State.respond_sets (s : State) (p : Port) (kind tag : Byte) (st : Status) (rs : List Byte) :
    (s.respond p kind tag st rs).sets = s.sets := rfl
@[simp] theorem State.respond_outputs (s : State) (p : Port) (kind tag : Byte) (st : Status) (rs : List Byte) :
    (s.respond p kind tag st rs).outputs = s.outputs := rfl
@[simp] theorem State.respond_sessions (s : State) (p : Port) (kind tag : Byte) (st : Status) (rs : List Byte) :
    (s.respond p kind tag st rs).sessions = s.sessions := rfl
@[simp] theorem State.respond_journals (s : State) (p : Port) (kind tag : Byte) (st : Status) (rs : List Byte) :
    (s.respond p kind tag st rs).journals = s.journals := rfl
@[simp] theorem State.respond_engines (s : State) (p : Port) (kind tag : Byte) (st : Status) (rs : List Byte) :
    (s.respond p kind tag st rs).engines = s.engines := rfl
@[simp] theorem State.respond_choice (s : State) (p : Port) (kind tag : Byte) (st : Status) (rs : List Byte) :
    (s.respond p kind tag st rs).choice = s.choice := rfl
@[simp] theorem State.respond_pending (s : State) (p : Port) (kind tag : Byte) (st : Status) (rs : List Byte) :
    (s.respond p kind tag st rs).pending = s.pending := rfl

@[simp] theorem State.respond_port_responses (s : State) (p : Port) (kind tag : Byte) (st : Status) (rs : List Byte) :
    ((s.respond p kind tag st rs).ports.at p).responses = (s.ports.at p).responses ++
        [{ kind := kind, tag := tag, payload := responsePayload (s.ports.at p) st rs }] := by
  simp [State.respond]
@[simp] theorem State.respond_port_overrun (s : State) (p : Port) (kind tag : Byte) (st : Status) (rs : List Byte) :
    ((s.respond p kind tag st rs).ports.at p).overrun = false := by
  simp [State.respond]
@[simp] theorem State.respond_port_discarded (s : State) (p : Port) (kind tag : Byte) (st : Status) (rs : List Byte) :
    ((s.respond p kind tag st rs).ports.at p).discarded = 0 := by
  simp [State.respond]
@[simp] theorem State.respond_port_requests (s : State) (p : Port) (kind tag : Byte) (st : Status) (rs : List Byte) :
    ((s.respond p kind tag st rs).ports.at p).requests = (s.ports.at p).requests := by
  simp [State.respond]
@[simp] theorem State.respond_port_sending (s : State) (p : Port) (kind tag : Byte) (st : Status) (rs : List Byte) :
    ((s.respond p kind tag st rs).ports.at p).sending = (s.ports.at p).sending := by
  simp [State.respond]
@[simp] theorem State.respond_port_receiver (s : State) (p : Port) (kind tag : Byte) (st : Status) (rs : List Byte) :
    ((s.respond p kind tag st rs).ports.at p).receiver = (s.ports.at p).receiver := by
  simp [State.respond]
@[simp] theorem State.respond_port_awaitIdle (s : State) (p : Port) (kind tag : Byte) (st : Status) (rs : List Byte) :
    ((s.respond p kind tag st rs).ports.at p).awaitIdle = (s.ports.at p).awaitIdle := by
  simp [State.respond]
@[simp] theorem State.respond_port_restartPending (s : State) (p : Port) (kind tag : Byte) (st : Status) (rs : List Byte) :
    ((s.respond p kind tag st rs).ports.at p).restartPending = (s.ports.at p).restartPending := by
  simp [State.respond]
@[simp] theorem State.respond_port_bitRate (s : State) (p : Port) (kind tag : Byte) (st : Status) (rs : List Byte) :
    ((s.respond p kind tag st rs).ports.at p).bitRate = (s.ports.at p).bitRate := by
  simp [State.respond]

@[simp] theorem State.respond_port_ne (s : State) {p q : Port} (kind tag : Byte) (st : Status) (rs : List Byte)
    (h : q ≠ p) : (s.respond p kind tag st rs).ports.at q = s.ports.at q := by
  simp [State.respond, h]

/-- Writing back the record that a table holds changes nothing. -/
@[simp] theorem State.putOutput_self (s : State) (o : OutId) : s.putOutput o (s.outputs.at o) = s := by
  simp [State.putOutput]

@[simp] theorem State.putLine_self (s : State) (l : LineId) : s.putLine l (s.lines.at l) = s := by
  simp [State.putLine]

@[simp] theorem State.inReset_putPort (s : State) (p : Port) (r : LinkPort) : (s.putPort p r).inReset = s.inReset := rfl

end Sys2Proof.Machine
end

