-- ==== Sys2Proof/Laws/Journals.lean ====
section
/-! SUPPORT. Journals and the pool: what admission does, how a LATEST set finds and moves its record, how records are
numbered and placed in a notice, and how folds act on a snapshot (spec/03, spec/04). -/

namespace Sys2Proof.Machine

open Sys2Proof

/-- An OUTPUT_FAULT or TIME_MARK record joins the journal, or is lost with the loss flag (R61). -/
theorem admitOrLose_eq (s : State) (p : Port) (r : Rec) : s.admitOrLose p r =
    { s with
      journals := if s.canAdmit p then s.journals.put p
        { s.journals.at p with unsent := (s.journals.at p).unsent ++ [r] } else s.journals
      sessions := if s.canAdmit p then s.sessions else s.sessions.put p { s.sessions.at p with loss := true }
      engines := if s.canAdmit p then s.engines else s.engines.put p { s.engines.at p with
        statusChanged := (s.engines.at p).statusChanged || !(s.sessions.at p).loss } } := by
  unfold State.admitOrLose State.tryAdmit
  by_cases h : s.canAdmit p
  · simp [h, State.append, State.putJournal]
  · simp only [h, State.noteLoss]
    by_cases hl : (s.sessions.at p).loss
    · have e1 : { s.sessions.at p with loss := true } = s.sessions.at p := by rw [← hl]
      have e2 : { s.engines.at p with statusChanged := (s.engines.at p).statusChanged || !(s.sessions.at p).loss }
        = s.engines.at p := by
        simp [hl]
      rw [e1, e2]; simp [hl]
    · simp [hl, State.raiseStatus, State.putEngine, State.putSession]

/-- The admission rule in numbers (R48). -/
theorem canAdmit_iff (s : State) (q : Port) : s.canAdmit q = true ↔ (s.journals.at q).holding < 64 ∨
    ((s.journals.at q).holding < 192 ∧ 0 < s.sharedFree) := by
  unfold State.canAdmit
  simp only [Bool.or_eq_true, Bool.and_eq_true, decide_eq_true_eq]
  rfl

/-- The shared slots free, from either session (R47). -/
theorem sharedFree_eq (s : State) (q : Port) : s.sharedFree = 128 - ((s.journals.at q).holding - 64) -
    ((s.journals.at q.other).holding - 64) := by
  cases q <;> simp [State.sharedFree, Config.sharedSlots, sharedPart, Config.reserveSlots, Port.other]
  omega

/-- The admission rule without the pool (R47, R48). -/
theorem room_iff (s : State) (p : Port) : s.canAdmit p = true ↔ (s.journals.at p).holding < 64 ∨
    ((s.journals.at p).holding < 192 ∧ ((s.journals.at p).holding - 64) +
      ((s.journals.at p.other).holding - 64) < 128) := by
  rw [canAdmit_iff, sharedFree_eq s p]
  constructor <;> rintro (h | ⟨h, h'⟩)
  · exact Or.inl h
  · exact Or.inr ⟨h, by omega⟩
  · exact Or.inl h
  · exact Or.inr ⟨h, by omega⟩

/-- What a CHANGE record of a set and line is. -/
theorem isChangeOf_iff (w : SetId) (l : LineId) (r : Rec) : r.isChangeOf w l = true ↔ ∃ level folded, r.body
    = .change w l level folded := by
  rcases r with ⟨st, _ | _ | _ | _ | _ | _ | _⟩ <;> simp [Rec.isChangeOf]

/-- What an updated record may not stay in front of (R29, R56). -/
theorem forcesMove_iff (w : SetId) (l : LineId) (r : Rec) : r.forcesMove w l = true ↔ (r.body.set? = some w ∧
    r.body.line? = some l) ∨ ∃ old new, r.body = .timeMark old new := by
  rcases r with ⟨st, _ | _ | _ | _ | _ | _ | _⟩ <;> simp [Rec.forcesMove, RecBody.set?, RecBody.line?]

/-- A LATEST update finds its record: in place, or at the end behind a record of its line or a TIME_MARK (R28, R29, R56). -/
theorem absorb_found (w : SetId) (l : LineId) (level : Bool) (stamp : Time) (before behind : List Rec) (r : Rec)
   (hb : ∀ r ∈ before, ¬ r.isChangeOf w l = true) (hr : r.isChangeOf w l = true) :
   absorbChange w l level stamp (before ++ r :: behind) = some (if behind.any (Rec.forcesMove w l) then before ++ behind ++ [(r.absorb level stamp).movedPast behind] else before ++ r.absorb level stamp :: behind) := by
  induction before with
  | nil => simp only [List.nil_append, absorbChange, hr, if_true]; split <;> rfl
  | cons a as ih =>
    simp only [List.cons_append, absorbChange]
    rw [if_neg (hb a (by simp)), ih (fun r h => hb r (by simp [h]))]
    split <;> rfl

/-- A LATEST update finds no record. -/
theorem absorb_none (w : SetId) (l : LineId) (level : Bool) (stamp : Time) (rs : List Rec)
   (hb : ∀ r ∈ rs, ¬ r.isChangeOf w l = true) : absorbChange w l level stamp rs = none := by
  induction rs with
  | nil => rfl
  | cons a as ih => simp only [absorbChange]; rw [if_neg (hb a (by simp)), ih (fun r h => hb r (by simp [h]))]; rfl

/-- What a LATEST update did to the UNSENT part. -/
theorem absorb_split {w l level stamp} {us vs : List Rec} (h : absorbChange w l level stamp us = some vs) :
   ∃ before behind r, us = before ++ r :: behind ∧ (∀ r ∈ before, ¬ r.isChangeOf w l = true) ∧ r.isChangeOf w l = true ∧
     ((behind.any (Rec.forcesMove w l) = false ∧ vs = before ++ r.absorb level stamp :: behind) ∨
      (behind.any (Rec.forcesMove w l) = true ∧ vs = before ++ behind ++ [(r.absorb level stamp).movedPast behind]))
        := by
  induction us generalizing vs with
  | nil => simp [absorbChange] at h
  | cons r rest ih =>
    simp only [absorbChange] at h
    by_cases hr : r.isChangeOf w l = true
    · rw [if_pos hr] at h
      refine ⟨[], rest, r, rfl, by simp, hr, ?_⟩
      by_cases hf : rest.any (Rec.forcesMove w l) = true
      · rw [if_pos hf] at h; injection h with h; right; exact ⟨hf, by simp [h]⟩
      · rw [if_neg hf] at h; injection h with h; left; exact ⟨by simpa using hf, by simp [h]⟩
    · rw [if_neg hr] at h
      rcases hx : absorbChange w l level stamp rest with _ | x
      · simp [hx] at h
      · simp [hx] at h; subst h
        obtain ⟨before, behind, r', h1, h2, h3, h4⟩ := ih hx
        refine ⟨r :: before, behind, r', by simp [h1], ?_, h3, ?_⟩
        · intro y hy; rcases List.mem_cons.mp hy with rfl | hy
          · exact hr
          · exact h2 y hy
        · rcases h4 with ⟨a, b⟩ | ⟨a, b⟩
          · left; exact ⟨a, by simp [b]⟩
          · right; exact ⟨a, by simp [b]⟩

/-- The body of an updated record. -/
theorem absorb_body {w l level stamp} {r : Rec} (h : r.isChangeOf w l = true) : ∃ f, (r.absorb level stamp).body
    = .change w l level f := by
  obtain ⟨lv, fo, hb⟩ := (isChangeOf_iff w l r).mp h
  exact ⟨some (foldCount fo, stamp), by simp [Rec.absorb, hb]⟩

/-- A LATEST update neither adds nor removes a record. -/
theorem absorb_length {w l level stamp} {us vs : List Rec} (h : absorbChange w l level stamp us
    = some vs) : vs.length = us.length := by
  induction us generalizing vs with
  | nil => simp [absorbChange] at h
  | cons r rest ih =>
    simp only [absorbChange] at h
    split at h
    · split at h <;> (injection h with h; subst h; simp)
    · rcases hr : absorbChange w l level stamp rest with _ | x
      · simp [hr] at h
      · simp [hr] at h; subst h; simp [ih hr]

/-- Numbering from a later number. -/
theorem number_eq (n : Sys2Proof.Seq) (rs : List Rec) (k : Nat) : number (n + BitVec.ofNat 16 k) rs =
    (rs.zipIdx k).map fun x => { seq := n + BitVec.ofNat 16 x.2, entry := x.1 } := by
  induction rs generalizing k with
  | nil => rfl
  | cons r rs ih =>
    simp only [number, List.zipIdx_cons, List.map_cons]
    rw [← ih]
    congr 2
    rw [BitVec.add_assoc]; congr 1
    simp [BitVec.ofNat_add]

/-- Numbering gives consecutive numbers (R74). -/
theorem number_zip (n : Sys2Proof.Seq) (rs : List Rec) : number n rs = rs.zipIdx.map fun x =>
    { seq := n + BitVec.ofNat 16 x.2, entry := x.1 } := by
  have := number_eq n rs 0
  simpa using this

theorem number_length (n : Sys2Proof.Seq) (rs : List Rec) : (number n rs).length = rs.length := by
  induction rs generalizing n with
  | nil => rfl
  | cons r rs ih => simp [number, ih]

theorem number_entries (n : Sys2Proof.Seq) (rs : List Rec) : (number n rs).map Sent.entry = rs := by
  induction rs generalizing n with
  | nil => rfl
  | cons r rs ih => simp [number, ih]

/-- The numbers of a numbered run. -/
theorem number_seq (n : Sys2Proof.Seq) (rs : List Rec) : (number n rs).map Sent.seq = (List.range rs.length).map
    (fun i => n + BitVec.ofNat 16 i) := by
  rw [number_zip, List.map_map]
  have : (List.range rs.length) = rs.zipIdx.map Prod.snd := by simp [List.range_eq_range']
  rw [this, List.map_map]; rfl

/-- A notice places a run at the front (R77). -/
theorem placed_prefix (n b : Nat) (rs : List Rec) : placed n b rs <+: rs := by
  induction rs generalizing n b with
  | nil => cases n <;> simp [placed]
  | cons r rs ih =>
    rcases n with _ | n
    · simp [placed]
    · simp only [placed]; split
      · exact List.cons_prefix_cons.mpr ⟨rfl, ih _ _⟩
      · simp

/-- With records of at most 16 bytes only the number of records limits a notice (R77, R181). -/
theorem placed_eq (n b : Nat) (rs : List Rec) (h : ∀ r ∈ rs, r.bytes.length ≤ 16) (hb : 16 * n ≤ b) : placed n b rs
    = rs.take n := by
  induction rs generalizing n b with
  | nil => cases n <;> simp [placed]
  | cons r rs ih =>
    rcases n with _ | n
    · simp [placed]
    · have hr := h r (by simp)
      rw [placed, if_pos (by omega), ih n (b - r.bytes.length) (fun r h' => h r (by simp [h'])) (by omega)]
      rfl

/-- The records sent for the first time are the front of the UNSENT part (R77). -/
theorem fresh_prefix (w e j) : (chooseRecords w e j).fresh <+: j.unsent := by
  simp only [chooseRecords]; split
  · exact (List.take_prefix _ _).trans (placed_prefix _ _ _)
  · simp

/-- The bytes of a run of records of at most 16 bytes each. -/
theorem bodyBytes_le (rs : List Rec) (h : ∀ r ∈ rs, r.bytes.length ≤ 16) : (bodyBytes rs).length ≤ 16 * rs.length
    := by
  induction rs with
  | nil => simp [bodyBytes]
  | cons r rs ih =>
    have := ih fun r h' => h r (by simp [h'])
    have hr := h r (by simp)
    simp only [bodyBytes, List.flatMap_cons, List.length_append, List.length_cons] at *
    omega

/-- A resend runs to the newest INFLIGHT record (R77). -/
theorem resendRun_suffix (m) (xs : List Sent) : resendRun m xs <:+ xs := by
  unfold resendRun; split
  · simp
  · exact List.dropWhile_suffix _

/-- What is left of a journal when a set is voided in it (R66). -/
theorem void_records {j : Journal} {w} {r : Rec} (hr : r ∈ ((j.dropUnsentOf w).voidInflightOf w).records) :
   r ∈ j.records ∧ r.body.set? ≠ some w ∨ r.body = .void w := by
  simp only [Journal.records, Journal.dropUnsentOf, Journal.voidInflightOf, List.mem_append, List.mem_map, List.mem_filter] at hr ⊢
  rcases hr with ⟨x, ⟨y, hy, rfl⟩, rfl⟩ | ⟨hr, hb⟩
  · split
    · right; rfl
    · rename_i hn; left; exact ⟨Or.inl ⟨y, hy, rfl⟩, by simpa [Rec.ofSet] using hn⟩
  · left; exact ⟨Or.inr hr, by simpa [Rec.ofSet] using hb⟩

/-- A set is in use when it is not IDLE. -/
theorem inUse_iff (ws : WatchSet) : ws.inUse = true ↔ ws.phase ≠ .idle := by
  rcases h : ws.phase with _ | _ | _ <;> simp [WatchSet.inUse, h]

/-- An update that changes no entry changes nothing. -/
theorem Tab.update_self {n : Nat} {α : Type} (t : Tab n α) (f : Fin n → α → α) (h : ∀ i, f i (t.at i)
    = t.at i) : t.update f = t := by
  apply Tab.ext_at; intro i; simp [h]

/-- One fold, over all sets at once (R88). -/
theorem foldRecord_eq (p : Port) (s : State) (r : Rec) : State.foldRecord p s r =
   { s with sets := s.sets.update fun w ws => ws.map fun x =>
            if x.owner = p ∧ x.phase ≠ .idle then
              { x with snapshot := if r.body.set? = some w then r.body.fold x.members x.snapshot else x.snapshot }
            else x } := by
  unfold State.foldRecord
  rcases hr : r.body.set? with _ | w <;> simp only
  · rw [Tab.update_self]; intro i; rcases s.sets.at i with _ | x <;> simp
  · rcases hs : s.sets.at w with _ | ws <;> simp only
    · rw [Tab.update_self]; intro i; rcases hi : s.sets.at i with _ | x
      · rfl
      · have : w ≠ i := by rintro rfl; simp [hs] at hi
        simp [this]
    · by_cases hc : ws.owner = p ∧ ws.inUse = true
      · rw [if_pos hc, State.putSet]
        congr 1
        apply Tab.ext_at; intro i
        by_cases hi : i = w
        · subst hi; simp [hs, hc.1, (inUse_iff ws).mp hc.2]
        · rw [Tab.at_put_ne _ _ hi]
          have : w ≠ i := Ne.symm hi
          rcases hi : s.sets.at i with _ | x <;> simp [this, hi]
      · rw [if_neg hc, Tab.update_self]
        intro i
        rw [inUse_iff] at hc
        by_cases hi : i = w
        · subst hi; simp only [hs, Option.map_some, if_neg hc]
        · have : w ≠ i := Ne.symm hi
          rcases hi : s.sets.at i with _ | x <;> simp [this]

/-- The folds of an ACK: each set of the session takes its own records in order (R88). -/
theorem foldl_foldRecord (p : Port) (rs : List Rec) (s : State) : rs.foldl (State.foldRecord p) s =
   { s with
          sets := s.sets.update fun w ws => ws.map fun x =>
            if x.owner = p ∧ x.phase ≠ .idle then
              { x with
                snapshot := (rs.filter fun r => decide (r.body.set? = some w)).foldl
                  (fun snap r => r.body.fold x.members snap) x.snapshot }
            else x } := by
  induction rs generalizing s with
  | nil =>
    simp only [List.foldl, List.filter_nil]
    rw [Tab.update_self]; intro i; rcases s.sets.at i with _ | x <;> simp
  | cons r rs ih =>
    rw [List.foldl, ih, foldRecord_eq]
    simp only
    congr 1
    apply Tab.ext_at; intro i
    simp only [Tab.at_update]
    rcases hs : s.sets.at i with _ | x
    · rfl
    · simp only [Option.map_some]
      by_cases hc : x.owner = p ∧ x.phase ≠ .idle
      · simp only [if_pos hc, List.filter_cons, decide_eq_true_eq]
        by_cases hr : r.body.set? = some i <;> simp [hr]
      · simp only [if_neg hc]

/-- A fold keeps the length of a snapshot. -/
theorem foldLevel_length (ms l v snap) (h : snap.length = ms.length) : (foldLevel ms l v snap).length = ms.length
    := by
  simp [foldLevel, h]

/-- The later of two folds of one line decides. -/
theorem foldLevel_absorb (ms l u v snap) : foldLevel ms l v (foldLevel ms l u snap) = foldLevel ms l v snap := by
  unfold foldLevel
  induction ms generalizing snap with
  | nil => simp
  | cons m ms ih =>
    rcases snap with _ | ⟨b, bs⟩
    · simp
    · simp only [List.zip_cons_cons, List.map_cons, ih, List.cons.injEq, and_true]
      by_cases h : m = l <;> simp [h]

/-- Folds of different lines commute. -/
theorem foldLevel_comm (ms) {l m : LineId} (hlm : l ≠ m) (u v snap) : foldLevel ms l v (foldLevel ms m u snap)
    = foldLevel ms m u (foldLevel ms l v snap) := by
  unfold foldLevel
  induction ms generalizing snap with
  | nil => simp
  | cons k ms ih =>
    rcases snap with _ | ⟨b, bs⟩
    · simp
    · simp only [List.zip_cons_cons, List.map_cons, ih, List.cons.injEq, and_true]
      by_cases h : k = l
      · subst h; simp [hlm]
      · simp [h]

/-- A fold in terms of the levels that a snapshot holds. -/
theorem foldLevel_map (ms l v snap) (f : LineId → Option Bool) (h : snap.map some = ms.map f) :
   (foldLevel ms l v snap).map some = ms.map fun m => if m = l then some v else f m := by
  unfold foldLevel
  induction ms generalizing snap with
  | nil => simp
  | cons k ms ih =>
    rcases snap with _ | ⟨b, bs⟩
    · simp at h
    · simp only [List.map_cons, List.cons.injEq] at h
      simp only [List.zip_cons_cons, List.map_cons, ih _ h.2, List.cons.injEq, and_true]
      by_cases hk : k = l <;> simp [hk, h.1]

/-- The record is no RESYNC_MARK. -/
def Rec.plain (r : Rec) : Prop := r.body.levels? = none

/-- Records applied in order to a snapshot (R33). -/
abbrev folds (ms : List LineId) (rs : List Rec) (sn : Option (List Bool)) : Option (List Bool) := rs.foldl (fun snap r => r.body.fold ms snap) sn

/-- Snapshots that agree off a line still do after a record that is no mark. -/
theorem fold_plain_agree (ms l v) {r : Rec} (hr : Rec.plain r) (x y : Option (List Bool)) (h : x.map
    (foldLevel ms l v) = y.map (foldLevel ms l v)) :
   (r.body.fold ms x).map (foldLevel ms l v) = (r.body.fold ms y).map (foldLevel ms l v) := by
  have key : ∀ m u, ((x.map (foldLevel ms m u)).map (foldLevel ms l v)) = ((y.map (foldLevel ms m u)).map (foldLevel ms l v)) := by
    intro m u
    by_cases hm : m = l
    · subst hm
      simp only [Option.map_map]
      have : (foldLevel ms m v ∘ foldLevel ms m u) = foldLevel ms m v := by funext z; exact foldLevel_absorb _ _ _ _ _
      rw [this]; exact h
    · have : ∀ z : Option (List Bool), (z.map (foldLevel ms m u)).map (foldLevel ms l v) = (z.map
      (foldLevel ms l v)).map (foldLevel ms m u) := by
        intro z; rcases z with _ | z
        · rfl
        · simp [foldLevel_comm ms (Ne.symm hm)]
      rw [this, this, h]
  rcases r with ⟨st, _ | _ | _ | _ | _ | _ | _⟩ <;> simp only [RecBody.fold]
  · exact key _ _
  · exact h
  · exact key _ _
  · exact h
  · exact h
  · exact h

/-- Snapshots that agree off a line still do after records without a mark. -/
theorem folds_plain_agree (ms l v) (rs : List Rec) (hr : ∀ r ∈ rs, Rec.plain r) (x y : Option (List Bool))
    (h : x.map (foldLevel ms l v) = y.map (foldLevel ms l v)) :
   (folds ms rs x).map (foldLevel ms l v) = (folds ms rs y).map (foldLevel ms l v) := by
  induction rs generalizing x y with
  | nil => exact h
  | cons r rs ih => exact ih (fun r' h' => hr r' (by simp [h'])) _ _ (fold_plain_agree ms l v (hr r (by simp)) x y h)

/-- A fold of a line passes records of other lines. -/
theorem folds_comm (ms l v) (rs : List Rec) (hr : ∀ r ∈ rs, Rec.plain r ∧ r.body.line? ≠ some l) (x : Option
    (List Bool)) :
   folds ms rs (x.map (foldLevel ms l v)) = (folds ms rs x).map (foldLevel ms l v) := by
  induction rs generalizing x with
  | nil => rfl
  | cons r rs ih =>
    obtain ⟨h1, h2⟩ := hr r (by simp)
    show folds ms rs (r.body.fold ms (x.map _)) = (folds ms rs (r.body.fold ms x)).map _
    rw [← ih (fun r' h' => hr r' (by simp [h']))]
    congr 1
    rcases r with ⟨st, ⟨w, m, u, f⟩ | _ | ⟨w, m, u⟩ | _ | _ | _ | _⟩ <;> simp only [RecBody.fold]
    · have : l ≠ m := fun h => h2 (by simp [RecBody.line?, h])
      rcases x with _ | x
      · rfl
      · simp [foldLevel_comm ms this]
    · have : l ≠ m := fun h => h2 (by simp [RecBody.line?, h])
      rcases x with _ | x
      · rfl
      · simp [foldLevel_comm ms this]
    · simp [Rec.plain, RecBody.levels?] at h1

theorem folds_snoc (ms rs r sn) : folds ms (rs ++ [r]) sn = r.body.fold ms (folds ms rs sn) := by simp [folds]

/-- The mismatch is empty exactly when every member agrees with the snapshot (R25). -/
theorem mismatch_empty {ws : WatchSet} {levels : List Bool} {level : LineId → Option Bool} (hs : ws.snapshot
    = some levels) (hlen : levels.length = ws.members.length) :
   (ws.mismatch level).isEmpty = true ↔ ws.members.map level = levels.map some := by
  simp only [WatchSet.mismatch, mismatchOf, hs, List.isEmpty_iff, List.map_eq_nil_iff, List.filter_eq_nil_iff, decide_eq_true_eq, not_not]
  generalize ws.members = ms at hlen
  clear hs
  induction ms generalizing levels with
  | nil => cases levels <;> simp at hlen ⊢
  | cons m ms ih =>
    rcases levels with _ | ⟨b, bs⟩
    · simp at hlen
    · have := ih (levels := bs) (by simpa using hlen)
      simp only [List.zip_cons_cons, List.map_cons, List.cons.injEq, ← this]
      simp

end Sys2Proof.Machine
end

