-- ==== Sys2Proof/Laws/Requests.lean ====
section
/-! SUPPORT. Everything the taking of a request can do, said once: when the handler takes a frame, which check decides, and what
the response is (R165, R172, R173). -/

namespace Sys2Proof.Machine

open Sys2Proof

@[simp] theorem PerPort.put_put {α : Type} (t : PerPort α) (p : Port) (x y : α) : (t.put p x).put p y = t.put p y := by
  cases p <;> rfl

theorem nextRequest_eq_some {s : State} {p : Port} {f : Frame} : s.nextRequest p = some f ↔ s.takes p f := by
  unfold State.nextRequest State.takes State.inReset
  by_cases hr : s.resetPeriod = none
  · by_cases hb : (s.ports.at p).restartPending = true
    · simp [hr, hb]
    · by_cases hl : (s.ports.at p).responses.length < 4
      · simp [hr, hb, hl, Config.queueDepth, Nat.not_le_of_lt hl]
      · simp [hr, hb, hl, Config.queueDepth, Nat.le_of_not_lt hl]
  · simp [Option.isSome_iff_ne_none.mpr hr, hr]

/-- The response to the frame that has just left the queue is the answer of R165. -/
theorem respond_popRequest (u : State) (p : Port) (f : Frame) (kind : Byte) (st : Status) (rs : List Byte) :
    (u.popRequest p).respond p kind f.tag st rs = u.answeredAs p f kind st rs := by
  simp [State.respond, State.popRequest, State.answeredAs, State.putPort, responsePayload, flagByte, byteOf]

/-- The requests with a wrong length, and those without a session, by the check that comes first (R172, R173). -/
theorem checkRequest_eq_none {k : ReqKind} {s : State} {p : Port} {payload : List Byte} (hl : payload.length = k.length)
    (hs : k.needsSession = true → s.isOpen p = true) : checkRequest k s p payload = none := by
  unfold checkRequest
  rcases hn : k.needsSession
  · simp [hl]
  · simp [hl, hs hn]

@[simp] theorem isOpen_popRequest (s : State) (p q : Port) : (s.popRequest p).isOpen q = s.isOpen q := rfl

/-- A request that fails no common check is handled by its own rule. -/
theorem takeRequest_serves {k : ReqKind} {own : Port → List Byte → State → Answer} {s : State} {p : Port} {f : Frame}
    {payload : List Byte} (h : s.serves p k payload f) (hl : payload.length = k.length) :
    takeRequest k own p s = (own p payload (s.popRequest p)).state.respond p (responseKind k.code) f.tag
      (own p payload (s.popRequest p)).status (own p payload (s.popRequest p)).results := by
  obtain ⟨ht, hk, hp, hs⟩ := h
  subst hp
  rw [takeRequest, nextRequest_eq_some.mpr ht]
  simp only [hk, if_true]
  rw [checkRequest_eq_none hl (by simpa using hs)]

/-- The answer of a request whose own rule leaves the state u, taken from s. -/
theorem takeRequest_answered {k : ReqKind} {own : Port → List Byte → State → Answer} {s u : State} {p : Port} {f : Frame}
    {payload : List Byte} {st : Status} {rs : List Byte} (h : s.serves p k payload f) (hl : payload.length = k.length)
    (hown : own p payload (s.popRequest p) = { state := u.popRequest p, status := st, results := rs }) :
    takeRequest k own p s = u.answered p f st rs := by
  rw [takeRequest_serves h hl, hown]
  simp only
  rw [respond_popRequest, State.answered, ← h.2.1]
  rfl

/-- What a request can do: nothing is taken, or a common check refuses it, or its own rule answers. -/
theorem takeRequest_cases (k : ReqKind) (own : Port → List Byte → State → Answer) (p : Port) (s : State) :
    takeRequest k own p s = s ∨
    (∃ f st, s.takes p f ∧ takeRequest k own p s = s.answeredAs p f (responseKind k.code) st []) ∨
    ∃ f, s.takes p f ∧ f.payload.length = k.length ∧ (k.needsSession = true → s.isOpen p = true) ∧
      takeRequest k own p s = (own p f.payload (s.popRequest p)).state.respond p (responseKind k.code) f.tag
        (own p f.payload (s.popRequest p)).status (own p f.payload (s.popRequest p)).results := by
  rcases hn : s.nextRequest p with _ | f
  · left; simp [takeRequest, hn]
  · by_cases hk : f.kind = k.code
    · right
      have ht := nextRequest_eq_some.mp hn
      by_cases hl : f.payload.length = k.length
      · by_cases hs : k.needsSession = true → s.isOpen p = true
        · right
          refine ⟨f, ht, hl, hs, ?_⟩
          simp only [takeRequest, hn, hk, if_true]
          rw [checkRequest_eq_none hl (by simpa using hs)]
        · left
          refine ⟨f, .noSession, ht, ?_⟩
          have hc : checkRequest k (s.popRequest p) p f.payload = some .noSession := by
            rw [Classical.not_imp] at hs
            simp [checkRequest, hl, hs.1, hs.2]
          simp only [takeRequest, hn, hk, if_true, hc, refuse]
          rw [respond_popRequest]
      · left
        refine ⟨f, .badRequest, ht, ?_⟩
        have hc : checkRequest k (s.popRequest p) p f.payload = some .badRequest := by simp [checkRequest, hl]
        simp only [takeRequest, hn, hk, if_true, hc, refuse]
        rw [respond_popRequest]
    · left; simp [takeRequest, hn, hk]

end Sys2Proof.Machine
end

