-- ==== Sys2Proof/Laws/Answers.lean ====
section
/-! SUPPORT. From a request to its answer: the command of a kind runs its own rule on the state without the frame, and
its arguments read back from the payload (R165, R173, R175). -/

namespace Sys2Proof.Machine

open Sys2Proof

/-- While a reset is asserted no frame is taken (R170). -/
theorem nextRequest_reset {s : State} (h : s.resetPeriod ≠ none) (p : Port) : s.nextRequest p = none := by
  simp [State.nextRequest, State.inReset, Option.isSome_iff_ne_none.mpr h]

/-- Without a frame to take a request does nothing. -/
theorem takeRequest_none {k own p} {s : State} (h : s.nextRequest p = none) : takeRequest k own p s = s := by
  simp [takeRequest, h]

/-- Only the ports change when a frame leaves its queue. -/
@[simp] theorem popRequest_time (s : State) (p) : (s.popRequest p).time = s.time := rfl
@[simp] theorem popRequest_now (s : State) (p) : (s.popRequest p).now = s.now := rfl
@[simp] theorem popRequest_lines (s : State) (p) : (s.popRequest p).lines = s.lines := rfl
@[simp] theorem popRequest_sets (s : State) (p) : (s.popRequest p).sets = s.sets := rfl
@[simp] theorem popRequest_outputs (s : State) (p) : (s.popRequest p).outputs = s.outputs := rfl
@[simp] theorem popRequest_sessions (s : State) (p) : (s.popRequest p).sessions = s.sessions := rfl
@[simp] theorem popRequest_journals (s : State) (p) : (s.popRequest p).journals = s.journals := rfl
@[simp] theorem popRequest_engines (s : State) (p) : (s.popRequest p).engines = s.engines := rfl
@[simp] theorem popRequest_choice (s : State) (p) : (s.popRequest p).choice = s.choice := rfl
@[simp] theorem popRequest_resetCause (s : State) (p) : (s.popRequest p).resetCause = s.resetCause := rfl
@[simp] theorem popRequest_resetCount (s : State) (p) : (s.popRequest p).resetCount = s.resetCount := rfl
@[simp] theorem popRequest_isLapsed (s : State) (p q) : (s.popRequest p).isLapsed q = s.isLapsed q := rfl
@[simp] theorem popRequest_level (s : State) (p) : (s.popRequest p).level = s.level := rfl
@[simp] theorem popRequest_staleMask (s : State) (p q) : (s.popRequest p).staleMask q = s.staleMask q := rfl
@[simp] theorem popRequest_attentionMask (s : State) (p q) : (s.popRequest p).attentionMask q = s.attentionMask q
    := rfl

/-- Two answers with the same parts are the same. -/
theorem answer_ext {a b : Answer} (h1 : a.state = b.state) (h2 : a.status = b.status) (h3 : a.results
    = b.results) : a = b := by
  cases a; cases b; simp_all

/-- The command of a request kind takes a request of that kind. -/
theorem exec_command (k : ReqKind) (p : Port) (s : State) :
    ∃ own, exec (k.command p) s = .next (takeRequest k own p s) := by
  cases k <;> exact ⟨_, rfl⟩

/-- A KIND that the part takes for a request is the code of one (R171, R176). -/
theorem isRequestKind_iff (b : Byte) : isRequestKind b = true → ∃ k : ReqKind, b = k.code := by
  have : ∀ b : Byte, isRequestKind b = true → b ∈ ([ReqKind.hello, .openSession, .close, .ping, .setTime, .configLine, .readLineConfig, .readLines, .readCounters, .defineSet,
      .armSet, .disarmSet, .deleteSet, .readSet, .ackSet, .resyncSet, .adoptSet, .ack, .journalStatus, .claimOutput,
      .releaseOutput, .configOutput, .writeOutputs, .readOutputs, .restart].map ReqKind.code) := by decide
  intro h
  obtain ⟨k, -, hk⟩ := List.mem_map.mp (this b h)
  exact ⟨k, hk.symm⟩

/-- The answer of a command from what its own rule makes of the state without the frame. -/
theorem exec_answered {k : ReqKind} {own} {c : Instr} {p : Port} {s u : State} {f : Frame} {payload : List Byte}
    {st rs}
    (h : s.serves p k payload f) (hl : payload.length = k.length) (he : exec c s = .next (takeRequest k own p s))
    (ho : own p payload (s.popRequest p) = { state := u.popRequest p, status := st, results := rs }) :
    exec c s = .next (u.answered p f st rs) := by
  rw [he, takeRequest_answered h hl ho]

/-- A flag reads as a decision (R175). -/
theorem flag_eq (k : Nat) : (if k = 0 then some false else if k = 1 then some true else none) = if k ≤ 1 then some
    (decide (k = 1)) else none := by
  rcases k with (_ | _ | k) <;> simp

/-- A value below 256 survives its byte. -/
theorem byteOf_small {n : Nat} (h : n < 256) : (byteOf n).toNat = n := by simp; omega

/-- A set or output number at the front of the payload (R34, R136). -/
theorem arg16th_eq {b : Nat} {rest : List Byte} (hb : b < 256) : arg16th (byteOf b :: rest) 0
    = if h : b < 16 then some ⟨b, h⟩ else none := by
  have e : arg8 (byteOf b :: rest) 0 = b := byteOf_small hb
  unfold arg16th
  split <;> split <;> simp_all
  omega

/-- A set number reads back. -/
theorem arg16th_set (w : SetId) (rest : List Byte) : arg16th (byteOf w.val :: rest) 0 = some w := by
  rw [arg16th_eq (by omega), dif_pos w.isLt]

/-- A byte behind a prefix. -/
theorem arg8_skip (pre l : List Byte) (i : Nat) (h : pre.length ≤ i) : arg8 (pre ++ l) i = arg8 l (i - pre.length)
    := by
  simp [arg8, List.getD, List.getElem?_append_right h]

/-- A field behind a prefix. -/
theorem argLe_skip (pre l : List Byte) (i k : Nat) (h : pre.length ≤ i) : argLe (pre ++ l) i k = argLe l
    (i - pre.length) k := by
  simp [argLe, List.drop_append, List.drop_eq_nil_of_le h]

/-- A mask at the front of the payload reads back. -/
theorem argMask0 {n k : Nat} (hk : n = 8 * k) (post : List Byte) (holds : Fin n → Bool) :
    argMask n (maskBytes k n holds ++ post) 0 k = (List.finRange n).filter holds := argMask_append hk [] post holds

/-- An output mask at the front of the payload reads back. -/
theorem mask_arg (named : OutId → Bool) (post : List Byte) : argMask 16 (maskBytes 2 16 named ++ post) 0 2 =
    (List.finRange 16).filter fun o => named o := by
  rw [argMask0 (by rfl)]

theorem mask_arg' (named : OutId → Bool) : argMask 16 (maskBytes 2 16 named) 0 2 = (List.finRange 16).filter fun o
    => named o := by
  have := mask_arg named []; simpa using this

/-- The second of two output masks reads back. -/
theorem mask_arg2 (a named : OutId → Bool) : argMask 16 (maskBytes 2 16 a ++ maskBytes 2 16 named) 2 2 =
    (List.finRange 16).filter fun o => named o := by
  have := argMask_append (n := 16) (k := 2) rfl (maskBytes 2 16 a) [] named
  simpa using this

/-- A mask names nothing when it holds of nothing. -/
theorem filter_isEmpty (named : Fin n → Bool) : ((List.finRange n).filter fun l => named l).isEmpty = true ↔ ∀ l,
    named l = false := by
  simp [List.isEmpty_iff, List.filter_eq_nil_iff]

theorem popRequest_lineInUse (s : State) (p) : (s.popRequest p).lineInUse = s.lineInUse := rfl

/-- The use check of CONFIG_LINE finds the lines of ARMED and STALE sets (R18). -/
theorem lineInUse_iff (s : State) (l : LineId) : s.lineInUse l = true ↔ s.watches l := by
  simp only [State.lineInUse, State.watches, List.any_eq_true, List.mem_finRange, true_and]
  constructor
  · rintro ⟨w, hw⟩
    rcases hs : s.sets.at w with _ | ws <;> simp only [hs] at hw
    · simp at hw
    · simp at hw
      refine ⟨w, ws, hs, ?_, hw.2⟩
      rintro hp; simp [WatchSet.inUse, hp] at hw
  · rintro ⟨w, ws, hs, hp, hl⟩
    refine ⟨w, ?_⟩
    simp only [hs, hl]
    rcases hq : ws.phase with _ | _ | _ <;> simp_all [WatchSet.inUse]

/-- The first checks of a set request pass for the requester's own set (R34). -/
theorem ownSet_eq {p : Port} {w : SetId} {ws : WatchSet} {s : State} (hs : s.sets.at w = some ws) (ho : ws.owner
    = p) (own) :
    ownSet p [byteOf w.val] (s.popRequest p) own = own w ws := by
  simp only [ownSet, arg16th_set, popRequest_sets, hs, if_pos ho]

/-- Levels that are all known are the member levels. -/
theorem levels_of {s : State} {ws : WatchSet} {levels : List Bool} (h : ws.members.map s.level = levels.map some) :
    s.levelsKnown ws = true ∧ s.memberLevels ws = levels ∧ levels.length = ws.members.length := by
  refine ⟨?_, ?_, ?_⟩
  · rw [State.levelsKnown, List.all_eq_true]
    intro l hl
    have : s.level l ∈ levels.map some := h ▸ List.mem_map_of_mem hl
    obtain ⟨b, -, hb⟩ := List.mem_map.mp this
    simp [← hb]
  · have : ws.members.map (fun l => (s.level l).getD false) = (ws.members.map s.level).map (·.getD false) := by simp
    rw [State.memberLevels, this, h]; simp
  · have := congrArg List.length h; simpa using this.symm

end Sys2Proof.Machine
end

