-- ==== Sys2Proof/Laws/Orders.lean ====
section
/-! SUPPORT. What holds of every order: an arrangement has the parts it was given, each once (logs 4, 6, 7). -/

namespace Sys2Proof.Machine

open Sys2Proof

theorem arrangeFrom_perm {α : Type} (use n : Nat) (xs : List α) : (arrangeFrom use n xs).Perm xs := by
  induction n generalizing xs with
  | zero => exact List.Perm.refl _
  | succ n ih =>
    match xs with
    | [] => exact List.Perm.refl _
    | [x] => exact List.Perm.refl _
    | x :: y :: zs =>
      have hi : Config.freeIndex use n % (zs.length + 2) < (x :: y :: zs).length := Nat.mod_lt _ (by simp)
      show (((x :: y :: zs)[Config.freeIndex use n % (zs.length + 2)]?.toList) ++
        arrangeFrom use n ((x :: y :: zs).eraseIdx (Config.freeIndex use n % (zs.length + 2)))).Perm _
      rw [List.getElem?_eq_getElem hi, Option.toList_some]
      exact ((ih _).cons _).trans (List.getElem_cons_eraseIdx_perm hi)

/-- A free order is a permutation of the parts. -/
theorem arrange_perm {α : Type} (use : Nat) (xs : List α) : (arrange use xs).Perm xs := arrangeFrom_perm use xs.length xs

@[simp] theorem mem_arrange {α : Type} (use : Nat) (xs : List α) (x : α) : x ∈ arrange use xs ↔ x ∈ xs :=
  (arrange_perm use xs).mem_iff

@[simp] theorem arrange_nil {α : Type} (use : Nat) : arrange use ([] : List α) = [] := rfl

@[simp] theorem arrange_one {α : Type} (use : Nat) (x : α) : arrange use [x] = [x] := rfl

/-- Two parts come in one order or the other. -/
theorem arrange_two {α : Type} (use : Nat) (x y : α) : arrange use [x, y] = [x, y] ∨ arrange use [x, y] = [y, x] := by
  unfold arrange
  simp only [List.length_cons, List.length_nil, arrangeFrom]
  rcases Nat.mod_two_eq_zero_or_one (Config.freeIndex use 1) with h | h <;> simp [h, arrangeFrom]

/-- What every part keeps, the whole arrangement keeps. -/
theorem foldl_arrange_keeps {α σ : Type} (P : σ → Prop) (f : σ → α → σ) (use : Nat) (xs : List α) (s : σ)
    (hs : P s) (hf : ∀ x ∈ xs, ∀ t, P t → P (f t x)) : P ((arrange use xs).foldl f s) := by
  have hf' : ∀ x ∈ arrange use xs, ∀ t, P t → P (f t x) := fun x hx => hf x ((mem_arrange use xs x).mp hx)
  generalize arrange use xs = ys at hf'
  induction ys generalizing s with
  | nil => exact hs
  | cons y ys ih =>
    exact ih (f s y) (hf' y (List.mem_cons_self ..) s hs) fun x hx => hf' x (List.mem_cons_of_mem _ hx)

end Sys2Proof.Machine
end

