-- ==== Sys2Proof/Laws/Outputs.lean ====
section
/-! SUPPORT. Outputs and sessions: every change of an output in the terms of `Output.reverified`, every change of a
session in those of `State.tornDown` and `State.lapsedFrom`, and what a verdict writes (spec/05, spec/07). -/

namespace Sys2Proof.Machine

open Sys2Proof

/-- A change of an output in the terms of the statements (R128, R138). -/
theorem Output.become_eq (o o' : Output) : o.become o' = o.reverified o' := by
  simp [Output.become, Output.reverified, Output.restartVerify]

/-- A restart of verification leaves the output state. -/
theorem become_state (o o' : Output) : (o.become o').state = o'.state := by
  unfold Output.become; split <;> rfl

/-- A release in the terms of the statements (R134). -/
theorem Output.release_eq (r : Output) : r.release = r.freed := by
  simp [Output.release, Output.freed, Output.become_eq]

/-- A claim changes no driven level, so no verification restarts (R119, R132). -/
theorem Output.claim_eq (r : Output) (p : Port) : r.claim p = match r.state.owner with
              | none => { r with state := .owned p, latch := r.safe }
              | some q => if q = p then r else { r with state := .owned p, latch := r.driven } := by
  rcases r with ⟨_ | q | ⟨q, _⟩ | q, _, _, _, _, _, _, _⟩ <;> simp [Output.claim, OutState.owner, Output.become, Output.driven]

/-- A resume changes no driven level, so no verification restarts (R131). -/
theorem Output.resume_eq (p : Port) (o : Output) : o.resume p = match o.state with
            | .grace q _ => if q = p then { o with state := .owned p } else o
            | .free | .owned _ | .safeHeld _ => o := by
  rcases o with ⟨_ | _ | ⟨q, e⟩ | _, _, _, _, _, _, _, _⟩ <;> simp [Output.resume, Output.become, Output.driven]

/-- A lapse in the terms of the statements (R130). -/
theorem Output.lapse_eq (p : Port) (now : Nat) (o : Output) : o.lapse p now = if o.state = .owned p then
          o.reverified { o with state := if o.grace = 0 then .safeHeld p else .grace p (now + 4 * o.grace) }
        else o := by
  simp [Output.lapse, Output.become_eq, Config.samplesPerMs]

/-- A teardown in the terms of the statements (R107). -/
theorem State.teardown_eq (s : State) (p) : s.teardown p = s.tornDown p := by
  simp only [State.teardown, State.tornDown, State.updateSets, State.updateOutputs, State.putJournal, State.putSession, State.putEngine]
  rfl

/-- A lapse of an OPEN session in the terms of the statements (R105). -/
theorem State.lapse_eq {s : State} {p : Port} {prm silence} (h : (s.sessions.at p).state = .opened prm silence)
    (why : LapseReason) : s.lapse p why = s.lapsedFrom p prm why := by
  simp only [State.lapse, h, State.lapsedFrom]
  split
  · exact State.teardown_eq s p
  · simp only [State.updateOutputs, State.putEngine, State.putSession, Output.lapse_eq, State.after, Config.samplesPerMs]

theorem admitOrLose_outputs (s : State) (p r) : (s.admitOrLose p r).outputs = s.outputs := by rw [admitOrLose_eq]

/-- What a fault writes in its output (R143). -/
theorem fault_outputs (s : State) (o d) : (s.faultOutput o d).outputs = s.outputs.put o
    { s.outputs.at o with fault := true, verify := .unverified } := by
  unfold State.faultOutput
  dsimp only
  split
  · rfl
  · split
    · rfl
    · rw [admitOrLose_outputs]; rfl

/-- What a verdict writes in its output (R139 to R141, R143). -/
theorem judge_outputs (s : State) (o d) : (s.judgeOutput o d).outputs = s.outputs.put o (if d =
    (s.outputs.at o).driven then { s.outputs.at o with verify := .ok } else
      { s.outputs.at o with fault := true, verify := .unverified }) := by
  unfold State.judgeOutput
  split
  · rfl
  · rw [fault_outputs]

/-- What a reconfiguration of the readback line does to an output (R142). -/
theorem hearOutput_reconf (s : State) (o : OutId) : s.hearOutput o .reconfigured = s.putOutput o
   (match (s.outputs.at o).verify with
              | .waiting _ | .deferred | .ok => { s.outputs.at o with verify := .unverified }
              | .off | .unverified => s.outputs.at o) := by
  rcases hv : (s.outputs.at o).verify with _ | _ | _ | _ | _ <;>
    simp [State.hearOutput, hv, State.hearWaiting, State.hearDeferred, State.hearOk, State.hearUnverified,
      State.unverifyOutput, State.putOutput]

/-- The verdict on a readback level, in the terms of the statements (R139 to R141, R143). -/
theorem judgeOutput_eq (s : State) (o : OutId) (d : Bool) : s.judgeOutput o d = s.judged o d := by
  unfold State.judgeOutput State.judged
  dsimp only
  split
  · rfl
  · unfold State.faultOutput
    dsimp only
    rcases hf : (s.outputs.at o).fault with _ | _
    · rcases ho : (s.outputs.at o).state.owner with _ | p
      · rfl
      · simp only [Bool.false_eq_true, if_false]
        by_cases h : s.canAdmit p = true
        · have hu : (s.putOutput o { s.outputs.at o with verify := .unverified, fault := true }).canAdmit p = true := h
          rw [if_pos ((room_iff s p).mp h), State.admitOrLose, State.tryAdmit, if_pos hu]; rfl
        · have hu : ¬ (s.putOutput o { s.outputs.at o with verify := .unverified, fault := true }).canAdmit p = true := h
          rw [if_neg (fun hc => h ((room_iff s p).mpr hc)), admitOrLose_eq, if_neg hu, if_neg hu, if_neg hu]; rfl
    · rfl

/-- The end of verification without a verdict. -/
theorem unverifyOutput_eq (s : State) (o : OutId) : s.unverifyOutput o = s.unjudged o := rfl

/-- What an output makes of an event of its readback line (R140, R141). -/
theorem hearOutput_event (s : State) (o : OutId) (e : LineEvent) : s.hearOutput o (.event e) = s.readbackTold o e := by
  unfold State.hearOutput State.readbackTold
  rcases hv : (s.outputs.at o).verify with _ | _ | _ | _ | _ <;> rcases e with _ | _ | _ <;>
    simp [State.hearWaiting, State.hearDeferred, State.hearOk, State.hearUnverified, judgeOutput_eq, unverifyOutput_eq]

theorem startVerify_state (n) (o : Output) : (o.startVerify n).state = o.state := by
  unfold Output.startVerify; split <;> rfl

end Sys2Proof.Machine
end

