-- ==== Sys2Proof/Laws/Lines.lean ====
section
/-! SUPPORT. Lines: what taking a sample does to a line, who hears of it, and what each hearer does (spec/01,
spec/02). -/

namespace Sys2Proof.Machine

open Sys2Proof

/-- Outside a reset a guarded command has its effect. -/
theorem whenRunning_running {s : State} (h : s.resetPeriod = none) (f : State → State) : whenRunning s f = .next
    (f s) := by
  simp [whenRunning, State.inReset, h]

/-- A guarded command has its effect, or nothing changes. -/
theorem whenRunning_next {s t : State} {f} (h : whenRunning s f = .next t) : t = s ∨ (s.resetPeriod = none ∧ t
    = f s) := by
  unfold whenRunning at h
  injection h with h
  split at h
  · exact Or.inl h.symm
  · rename_i hr; right; refine ⟨?_, h.symm⟩
    simpa [State.inReset] using hr

/-- A line takes its sample with news to tell. -/
theorem takeLine_some {s : State} {l : LineId} {x : Bool} (hw : (s.lines.at l).waiting = some x) {r' : LineRec}
    {news : LineNews}
    (ht : (s.lines.at l).take s.now s.time x = (r', some news)) : s.takeLine l = (s.putLine l r').tell l news := by
  simp [State.takeLine, hw, ht]

/-- A line takes its sample without news. -/
theorem takeLine_none {s : State} {l : LineId} {x : Bool} (hw : (s.lines.at l).waiting = some x) {r' : LineRec}
    (ht : (s.lines.at l).take s.now s.time x = (r', none)) : s.takeLine l = s.putLine l r' := by
  simp [State.takeLine, hw, ht]

/-- News that nobody hears only uses up an order (log 6). -/
theorem tell_none {s : State} {l : LineId} {news : LineNews} (h : s.hearers l news = []) : s.tell l news =
    { s with choice := s.choice + 1 } := by
  simp [State.tell, h]

/-- News with one hearer. -/
theorem tell_one {s : State} {l : LineId} {news : LineNews} {x : Hearer} (h : s.hearers l news = [x]) :
    s.tell l news = State.hear l news { s with choice := s.choice + 1 } x := by
  simp [State.tell, h]

/-- A field line senses no output. -/
theorem sensed_none {l : LineId} (h : l.val < 48) : l.sensed = none := by
  simp [LineId.sensed]; omega

/-- A readback line senses its output. -/
theorem sensed_readback (o : OutId) : (OutId.readback o).sensed = some o := by
  simp [LineId.sensed, OutId.readback]

/-- A set follows a line when it is ARMED with it (R26). -/
theorem follows_iff (ws : WatchSet) (l : LineId) : ws.follows l = true ↔ ws.phase = .armed ∧ l ∈ ws.members := by
  simp [WatchSet.follows]

theorem setFollows_iff (s : State) (w : SetId) (l : LineId) : s.setFollows w l = true ↔ ∃ ws, s.sets.at w = some ws
    ∧ ws.phase = .armed ∧ l ∈ ws.members := by
  unfold State.setFollows
  rcases h : s.sets.at w with _ | ws <;> simp [follows_iff]

theorem filter_single {α : Type} [DecidableEq α] (f : α → Bool) (xs : List α) (hn : xs.Nodup) (w : α) (hw : w ∈ xs)
    (hf : f w = true) (hu : ∀ v, f v = true → v = w) : xs.filter f = [w] := by
  induction xs with
  | nil => simp at hw
  | cons a as ih =>
    rw [List.nodup_cons] at hn
    by_cases ha : a = w
    · subst ha
      rw [List.filter_cons_of_pos hf]
      congr 1
      rw [List.filter_eq_nil_iff]; intro b hb hfb; exact hn.1 (hu b hfb ▸ hb)
    · rw [List.filter_cons_of_neg (fun h => ha (hu a h))]
      exact ih hn.2 ((List.mem_cons.mp hw).resolve_left (Ne.symm ha))

/-- Only the Output Controller hears an event that no set follows. -/
theorem hearers_unfollowed {s : State} {l : LineId} (h : s.unfollowed l) (e : LineEvent) : s.hearers l (.event e) =
    (l.sensed.map Hearer.output).toList := by
  have : ((List.finRange 16).filter fun w => s.setFollows w l) = [] := by
    rw [List.filter_eq_nil_iff]; intro w _ hw
    obtain ⟨ws, h1, h2, h3⟩ := (setFollows_iff s w l).mp hw
    exact h w ws h1 h2 h3
  simp [State.hearers, this]

/-- The one set that follows a field line hears its event. -/
theorem hearers_followed {s : State} {l : LineId} {w : SetId} {ws : WatchSet} (h : s.followedBy l w ws)
    (hl : l.val < 48) (e : LineEvent) :
    s.hearers l (.event e) = [.set w] := by
  obtain ⟨h1, h2, h3, h4⟩ := h
  have : ((List.finRange 16).filter fun w => s.setFollows w l) = [w] := by
    apply filter_single _ _ (List.nodup_finRange 16) _ (List.mem_finRange w)
    · rw [setFollows_iff]; exact ⟨ws, h1, h2, h3⟩
    · intro v hv; obtain ⟨vs, g1, g2, g3⟩ := (setFollows_iff s v l).mp hv; exact h4 v vs g1 g2 g3
  simp [State.hearers, this, sensed_none hl]

/-- Only the Output Controller hears news that is no event (R17). -/
theorem hearers_calm (s : State) (o : OutId) (n) (hn : ∀ e, n ≠ .event e) : s.hearers (OutId.readback o) n
    = [.output o] := by
  unfold State.hearers
  rcases n with e | _ | _ | _ | _
  · exact absurd rfl (hn e)
  all_goals simp [sensed_readback]

/-- Nobody hears news twice. -/
theorem hearers_nodup (s : State) (l n) : (s.hearers l n).Nodup := by
  unfold State.hearers
  dsimp only
  have h2 : (l.sensed.map Hearer.output).toList.Nodup := by rcases l.sensed <;> simp
  rw [List.nodup_append]
  refine ⟨?_, h2, ?_⟩
  · split
    · refine List.Nodup.map (fun a b h => by injection h) ?_
      exact (List.nodup_finRange 16).filter _
    all_goals simp
  · intro a ha b hb
    have : ∃ o, b = .output o := by
      rcases hs : l.sensed with _ | o
      · rw [hs] at hb; simp at hb
      · rw [hs] at hb; simp at hb; exact ⟨o, hb⟩
    obtain ⟨o, rfl⟩ := this
    split at ha
    · obtain ⟨w, -, rfl⟩ := List.mem_map.mp ha; simp
    all_goals simp at ha

/-- The sets that hear an event are those that follow the line. -/
theorem mem_hearers (s : State) (l e w) : Hearer.set w ∈ s.hearers l (.event e) ↔ s.setFollows w l = true := by
  unfold State.hearers
  simp only [List.mem_append, List.mem_map, List.mem_filter]
  constructor
  · rintro (⟨v, ⟨-, hv⟩, hvw⟩ | h)
    · injection hvw with hvw; subst hvw; exact hv
    · rcases hs : l.sensed with _ | o <;> simp [hs] at h
  · intro h; left; exact ⟨w, ⟨List.mem_finRange _, h⟩, rfl⟩

theorem putLine_hearers (s : State) (l r n) : (s.putLine l r).hearers l n = s.hearers l n := rfl

/-- The window expiry touches the chatter count and the window timer only (R9). -/
@[simp] theorem expireWindow_state (r : LineRec) (n) : (r.expireWindow n).state = r.state := by
  unfold LineRec.expireWindow; split <;> rfl
@[simp] theorem expireWindow_config (r : LineRec) (n) : (r.expireWindow n).config = r.config := by
  unfold LineRec.expireWindow; split <;> rfl
@[simp] theorem expireWindow_lastRaw (r : LineRec) (n) : (r.expireWindow n).lastRaw = r.lastRaw := by
  unfold LineRec.expireWindow; split <;> rfl
@[simp] theorem expireWindow_waiting (r : LineRec) (n) : (r.expireWindow n).waiting = r.waiting := by
  unfold LineRec.expireWindow; split <;> rfl
@[simp] theorem expireWindow_edges (r : LineRec) (n) : (r.expireWindow n).edges = r.edges := by
  unfold LineRec.expireWindow; split <;> rfl
@[simp] theorem expireWindow_isEdge (r : LineRec) (n x) : (r.expireWindow n).isEdge x = r.isEdge x := by
  simp [LineRec.isEdge]
@[simp] theorem expireWindow_input (r : LineRec) (n x) : (r.expireWindow n).input x = r.input x := by
  simp [LineRec.input]

theorem isEdge_iff (r : LineRec) (x) : r.isEdge x = true ↔ r.lastRaw = some (!x) := by simp [LineRec.isEdge]

/-- A due change that passes the check is applied (R8). -/
theorem take_change {r : LineRec} {now : Nat} {time : Time} {d stamp expiry x}
    (h : r.changeDue now d stamp expiry x) :
    r.take now time x = (r.changed now d x, some (.event (.change (!d) stamp))) := by
  obtain ⟨h1, h2, h3, h4, h5⟩ := h
  have hin : ¬ r.input x = d := by simp [LineRec.input, h4]
  have hlim : ¬ (r.config.chatterLimit ≠ 0 ∧ r.config.chatterLimit < (r.expireWindow now).chatterCount + 1) := by omega
  simp [LineRec.take, h2, LineRec.takePending, hin, h3]
  unfold LineRec.due
  simp only [expireWindow_config, if_neg hlim]
  simp [LineRec.changed, Config.samplesPerMs]

/-- DEBOUNCE_EXPIRY of such a change. -/
theorem change_step {s : State} {l : LineId} {d stamp expiry x} (hr : s.resetPeriod = none) (h :
    (s.lines.at l).changeDue s.now d stamp expiry x) :
    exec (.debounceExpiry l) s = .next ((s.putLine l ((s.lines.at l).changed s.now d x)).tell l (.event (.change
      (!d) stamp))) := by
  show whenRunning s _ = _
  rw [whenRunning_running hr, if_pos (by simp [LineRec.debounceDue, h.1, h.2.1, h.2.2.1]), takeLine_some h.1 (take_change h)]

/-- The quiet expiry ends the chatter (R12). -/
theorem take_quiet {s : State} {l : LineId} {d x quiet} (hs : (s.lines.at l).state = .chatter d quiet)
    (hq : quiet ≤ s.now) (hl : (s.lines.at l).lastRaw ≠ some (!x)) :
   let r := (s.lines.at l).expireWindow s.now
   let level := x ^^ r.config.invert
   (s.lines.at l).take s.now s.time x = ({ r.left x (.stable level) with
          chatterCount := 0
          edges := if level
            = d then r.edges else countEdge r.config.counted level r.edges }, some (.event (.chatterEnd level s.time (decide (level ≠ d))))) := by
  have hl' : (s.lines.at l).isEdge x = false := by rw [Bool.eq_false_iff]; exact fun hc => hl ((isEdge_iff _ _).mp hc)
  simp [LineRec.take, hs, LineRec.takeChatter, hl', hq, LineRec.left, LineRec.input]

/-- QUIET_EXPIRY of such a line. -/
theorem quiet_step {s : State} {l : LineId} {d x quiet} (hr : s.resetPeriod = none) (hw : (s.lines.at l).waiting
    = some x) (hs : (s.lines.at l).state = .chatter d quiet) (hq : quiet ≤ s.now) (hl :
      (s.lines.at l).lastRaw ≠ some (!x)) :
   let r := (s.lines.at l).expireWindow s.now
   let level := x ^^ r.config.invert
   exec (.quietExpiry l) s = .next ((s.putLine l { r.left x (.stable level) with
          chatterCount := 0
          edges := if level
            = d then r.edges else countEdge r.config.counted level r.edges }).tell l (.event (.chatterEnd level s.time (decide (level ≠ d))))) := by
  have hl' : (s.lines.at l).isEdge x = false := by rw [Bool.eq_false_iff]; exact fun hc => hl ((isEdge_iff _ _).mp hc)
  show whenRunning s _ = _
  rw [whenRunning_running hr, if_pos (by simp [LineRec.quietDue, hw, hs, hq, hl']), takeLine_some hw (take_quiet hs hq hl)]

/-- An event of a field line that one set follows. -/
theorem tell_followed {s : State} {l : LineId} {w : SetId} {ws : WatchSet} (h : s.followedBy l w ws)
    (hl : l.val < 48) (r : LineRec) (e : LineEvent) :
   (s.putLine l r).tell l (.event e) = ({ s.putLine l r with choice := s.choice + 1 } : State).hearSet w l e := by
  rw [tell_one (x := .set w) (by rw [putLine_hearers, hearers_followed h hl])]
  rfl

/-- An admission for a set gives the record that the set asked for, or the overrun (R30, R31). -/
theorem admitForSet_asked (s : State) (w : SetId) (ws : WatchSet) (r : Rec) : s.recordAsked w ws r (s.admitForSet w ws r) := by
  constructor
  · intro h
    simp only [State.admitForSet, State.tryAdmit, (room_iff s _).mpr h, if_true, Option.getD_some]; rfl
  · intro h
    have : s.canAdmit ws.owner = false := by rw [Bool.eq_false_iff]; exact fun hc => h ((room_iff s _).mp hc)
    simp only [State.admitForSet, State.tryAdmit, this]; rfl

/-- What an ARMED set does with an event of a member, by its mode (R26). -/
theorem hearSet_armed {s : State} {w : SetId} {ws : WatchSet} {l : LineId} (hs : s.sets.at w = some ws) (hp : ws.phase = .armed)
    (hl : l ∈ ws.members) (e : LineEvent) : s.hearSet w l e = match ws.mode with
      | .each => s.admitForSet w ws (e.record w l)
      | .latest => s.hearLatest w ws l e
      | .summary => s.hearSummary w ws l e := by
  unfold State.hearSet
  rw [hs]
  simp only
  exact if_pos ((follows_iff ws l).mpr ⟨hp, hl⟩)

/-- An EACH set asks for a record (R27). -/
theorem hearSet_each {s : State} {l : LineId} {w : SetId} {ws : WatchSet} (h : s.followedBy l w ws) (hm : ws.mode
    = .each) (u : State) (hu : u.sets = s.sets) (e : LineEvent) :
   u.hearSet w l e = u.admitForSet w ws (e.record w l) := by
  rw [hearSet_armed (by rw [hu]; exact h.1) h.2.1 h.2.2.1, hm]

/-- A LATEST set updates or asks for a record (R28). -/
theorem hearSet_latest {s : State} {l : LineId} {w : SetId} {ws : WatchSet} (h : s.followedBy l w ws) (hm : ws.mode
    = .latest) (u : State) (hu : u.sets = s.sets) (e : LineEvent) :
   u.hearSet w l e = u.hearLatest w ws l e := by
  rw [hearSet_armed (by rw [hu]; exact h.1) h.2.1 h.2.2.1, hm]

/-- A SUMMARY set watches its mismatch (R32). -/
theorem hearSet_summary {s : State} {l : LineId} {w : SetId} {ws : WatchSet} (h : s.followedBy l w ws) (hm : ws.mode
    = .summary) (u : State) (hu : u.sets = s.sets) (e : LineEvent) :
   u.hearSet w l e = u.hearSummary w ws l e := by
  rw [hearSet_armed (by rw [hu]; exact h.1) h.2.1 h.2.2.1, hm]

theorem hearLatest_some {u : State} {w ws l level stamp uns} (h : absorbChange w l level stamp
    (u.journals.at ws.owner).unsent = some uns) : u.hearLatest w ws l (.change level stamp) = u.putJournal ws.owner
      { u.journals.at ws.owner with unsent := uns } := by
  simp only [State.hearLatest, h]

theorem hearLatest_none {u : State} {w ws l level stamp} (h : absorbChange w l level stamp
    (u.journals.at ws.owner).unsent = none) : u.hearLatest w ws l (.change level stamp) = u.admitForSet w ws
      ((LineEvent.change level stamp).record w l) := by
  simp only [State.hearLatest, h]

/-- A LATEST set absorbs a change (R28, R29, R56). -/
theorem hearLatest_absorbs (s : State) (w : SetId) (ws : WatchSet) (l : LineId) (level : Bool) (stamp : Time) :
    s.changeAbsorbed w ws l level stamp (s.hearLatest w ws l (.change level stamp)) := by
  have hoth : ∀ r : Rec, (∀ v folded, r.body ≠ .change w l v folded) → ¬ r.isChangeOf w l = true := by
    intro r hr hc; obtain ⟨a, b, h⟩ := (isChangeOf_iff w l r).mp hc; exact hr a b h
  constructor
  · intro before behind first v folded hj hb count body
    set r0 : Rec := { stamp := first, body := .change w l v folded } with hr0
    have habs := absorb_found w l level stamp before behind r0 (fun r h => hoth r (hb r h)) (by simp [r0, isChangeOf_iff])
    have ha : r0.absorb level stamp = { stamp := first, body := body } := by
      rfl
    have hbl : behind.any (Rec.forcesMove w l) = true ↔ ∃ r ∈ behind, (r.body.set? = some w ∧ r.body.line? = some l) ∨ ∃ old new, r.body = .timeMark old new := by
      rw [List.any_eq_true]; simp only [forcesMove_iff]
    rw [ha, ← hj] at habs
    constructor
    · intro h
      rw [if_neg (fun hc => h (hbl.mp hc))] at habs
      exact hearLatest_some habs
    · intro h
      rw [if_pos (hbl.mpr h)] at habs
      exact hearLatest_some habs
  · intro h
    rw [hearLatest_none (absorb_none _ _ _ _ _ (fun r hr => hoth r (h r hr)))]
    exact admitForSet_asked _ _ _ _

/-- A SUMMARY set raises its attention where an event takes its members out of agreement (R32). -/
theorem hearSummary_attended {s : State} {w : SetId} {ws : WatchSet} {l : LineId} {levels : List Bool}
    (hs : ws.snapshot = some levels) (hlen : levels.length = ws.members.length) (e : LineEvent) :
    let raised := (ws.members.map fun m => if m = l then some e.before else s.level m) = levels.map some ∧
      ws.members.map s.level ≠ levels.map some
    (raised → s.hearSummary w ws l e = s.attended w ws) ∧ (¬ raised → s.hearSummary w ws l e = s) := by
  intro raised
  have h1 := mismatch_empty (level := fun m => if m = l then some e.before else s.level m) hs hlen
  have h2 := mismatch_empty (level := s.level) hs hlen
  have hc : ((ws.mismatch fun m => if m = l then some e.before else s.level m).isEmpty && !(ws.mismatch s.level).isEmpty) = true ↔ raised := by
    rw [Bool.and_eq_true, h1, Bool.not_eq_true', Bool.eq_false_iff, Ne, h2]
  unfold State.hearSummary
  constructor
  · intro h; dsimp only; rw [if_pos (hc.mpr h)]; rfl
  · intro h; dsimp only; rw [if_neg (fun hh => h (hc.mp hh))]

/-- A due change is applied or freezes the line, from PENDING or, without debounce, from STABLE (R6, R8, R10). -/
theorem take_due {r : LineRec} {now : Nat} {time : Time} {d x : Bool} {stamp : Time}
    (h : (r.state = .stable d ∧ r.config.debounce = 0 ∧ stamp = time) ∨ ∃ expiry, r.state = .pending d stamp expiry ∧ expiry ≤ now)
    (hx : (x ^^ r.config.invert) = !d) :
    let r1 := r.expireWindow now
    (r1.config.chatterLimit = 0 ∨ r1.chatterCount + 1 ≤ r1.config.chatterLimit →
      r.take now time x = (r.changed now d x, some (.event (.change (!d) stamp)))) ∧
    (¬ (r1.config.chatterLimit = 0 ∨ r1.chatterCount + 1 ≤ r1.config.chatterLimit) →
      r.take now time x = (r.frozen now d x, some (.event (.chatterStart d time)))) := by
  intro r1
  have hin : ¬ r.input x = d := by simp [LineRec.input, hx]
  have ht : r.take now time x = ({ (r1.due now time d stamp).1 with lastRaw := some x, waiting := none }, some (r1.due now time d stamp).2) := by
    rcases h with ⟨h1, h2, rfl⟩ | ⟨e, h1, h2⟩
    · simp [LineRec.take, h1, LineRec.takeStable, hin, h2, r1]
    · simp [LineRec.take, h1, LineRec.takePending, hin, h2, r1]
  rw [ht]
  constructor
  · intro hp
    unfold LineRec.due
    rw [if_neg (by omega)]
    simp [LineRec.changed, Config.samplesPerMs, r1]
  · intro hp
    unfold LineRec.due
    rw [if_pos (by omega)]
    simp [LineRec.frozen, LineRec.left, Config.samplesPerMs, r1]

/-- A command that makes a line raise an event: the line's record changes, and its neighbours are told (R15). -/
theorem raises_step {s : State} {l : LineId} {c : Instr} {e : LineEvent} {after : LineRec} (h : s.raises l c e after) :
    exec c s = .next ((s.putLine l after).tell l (.event e)) := by
  obtain ⟨hr, x, hw, h⟩ := h
  dsimp only at h
  simp only [expireWindow_state, expireWindow_config, expireWindow_lastRaw] at h
  rcases h with ⟨d, stamp, hc, hx, he⟩ | ⟨d, quiet, rfl, hs, hq, hl, rfl, rfl⟩
  · have hd : ((s.lines.at l).state = .stable d ∧ (s.lines.at l).config.debounce = 0 ∧ stamp = s.time) ∨ ∃ expiry, (s.lines.at l).state = .pending d stamp expiry ∧ expiry ≤ s.now := by
      rcases hc with ⟨-, h⟩ | ⟨-, h1, h2, h3, h4⟩
      · exact Or.inr h
      · exact Or.inl ⟨h1, h2, h4⟩
    have hstep : exec c s = .next (s.takeLine l) := by
      rcases hc with ⟨rfl, ex, h1, h2⟩ | ⟨rfl, h1, h2, h3, h4⟩
      · show whenRunning s _ = _
        rw [whenRunning_running hr, if_pos (by simp [LineRec.debounceDue, hw, h1, h2])]
      · show whenRunning s _ = _
        rw [whenRunning_running hr, if_pos (by simp [LineRec.rawEdgeDue, hw, LineRec.isEdge, h3])]
    rw [hstep]
    have ht := take_due (now := s.now) (time := s.time) hd hx
    dsimp only at ht
    simp only [expireWindow_config] at ht
    rcases he with ⟨hp, rfl, rfl⟩ | ⟨hp, rfl, rfl⟩
    · rw [takeLine_some hw (ht.1 hp)]
    · rw [takeLine_some hw (ht.2 hp)]
  · have := quiet_step hr hw hs hq hl
    dsimp only at this
    simp only [expireWindow_config] at this
    rw [this]
    simp [LineRec.calmed]

/-- The line that senses an output is its readback line (R3). -/
theorem sensed_iff (l : LineId) (o : OutId) : l.sensed = some o ↔ l = OutId.readback o := by
  unfold LineId.sensed OutId.readback
  constructor
  · intro h
    split at h
    · injection h with h; subst h; ext; simp; omega
    · simp at h
  · rintro rfl
    simp

/-- The telling of an event: every follower once, in some order (R15, R59; log 6). -/
theorem tell_order (s : State) (l : LineId) (e : LineEvent) : ∃ order : List Hearer, order.Nodup ∧
      (∀ w, .set w ∈ order ↔ ∃ ws, s.sets.at w = some ws ∧ ws.phase = .armed ∧ l ∈ ws.members) ∧
      (∀ o, .output o ∈ order ↔ l = OutId.readback o) ∧
      s.tell l (.event e) = order.foldl (State.hear l (.event e)) { s with choice := s.choice + 1 } := by
  refine ⟨arrange s.choice (s.hearers l (.event e)), ?_, ?_, ?_, rfl⟩
  · exact (arrange_perm _ _).nodup_iff.mpr (hearers_nodup _ _ _)
  · intro w; rw [mem_arrange, mem_hearers, setFollows_iff]
  · intro o
    rw [mem_arrange, ← sensed_iff]
    unfold State.hearers
    rcases hs : l.sensed with _ | k
    · simp
    · constructor
      · intro h
        rcases List.mem_append.mp h with h | h
        · obtain ⟨v, -, hv⟩ := List.mem_map.mp h; cases hv
        · have := List.mem_singleton.mp h; injection this with this; rw [this]
      · intro h; injection h with h; subst h; exact List.mem_append_right _ (List.mem_singleton.mpr rfl)

/-- News that is no event reaches the Output Controller only (R17). -/
theorem hearers_unset (s : State) (l : LineId) (n : LineNews) (hn : ∀ e, n ≠ .event e) : s.hearers l n = (l.sensed.map Hearer.output).toList := by
  unfold State.hearers
  cases n
  · exact absurd rfl (hn _)
  all_goals rfl

/-- A sample at D ends the pending period (R7, R8). -/
theorem take_abandon {r : LineRec} {now : Nat} {time : Time} {x d : Bool} {stamp : Time} {expiry : Nat}
    (hs : r.state = .pending d stamp expiry) (hx : (x ^^ r.config.invert) = d) :
    r.take now time x = ((r.expireWindow now).left x (.stable d), some (.abandoned d)) := by
  have hin : r.input x = d := hx
  simp [LineRec.take, hs, LineRec.takePending, hin, LineRec.left]

/-- The sample at which a line leaves INIT (R5). -/
theorem take_settle {r : LineRec} {now : Nat} {time : Time} {x : Bool} {settle : Option Nat}
    (hs : r.state = .init settle) (hd : r.config.debounce = 0 ∨ ((∃ e, settle = some e ∧ e ≤ now) ∧ r.lastRaw ≠ some (!x))) :
    r.take now time x = ((r.expireWindow now).left x (.stable (x ^^ r.config.invert)), some (.settled (x ^^ r.config.invert))) := by
  by_cases h0 : r.config.debounce = 0
  · simp [LineRec.take, hs, LineRec.takeInit, h0, LineRec.left, LineRec.input]
  · rcases hd with hd | ⟨⟨e, rfl, he⟩, hl⟩
    · exact absurd hd h0
    · have hl' : r.isEdge x = false := by rw [Bool.eq_false_iff]; exact fun hc => hl ((isEdge_iff _ _).mp hc)
      simp [LineRec.take, hs, LineRec.takeInit, h0, hl', he, LineRec.left, LineRec.input]

/-- SETTLE_EXPIRY is due at that sample. -/
theorem settle_due {r : LineRec} {now : Nat} {x : Bool} {settle : Option Nat} (hw : r.waiting = some x)
    (hs : r.state = .init settle) (hd : r.config.debounce = 0 ∨ ((∃ e, settle = some e ∧ e ≤ now) ∧ r.lastRaw ≠ some (!x))) :
    r.settleDue now = true := by
  unfold LineRec.settleDue
  simp only [hw, hs]
  rcases hd with hd | ⟨⟨e, rfl, he⟩, hl⟩
  · simp [hd]
  · have hl' : r.isEdge x = false := by rw [Bool.eq_false_iff]; exact fun hc => hl ((isEdge_iff _ _).mp hc)
    simp [expired, he, hl']

/-- A known level stays known when a line takes a sample. -/
theorem take_known {r : LineRec} {now time x} (h : r.state.level ≠ none) : (r.take now time x).1.state.level ≠ none
    := by
  unfold LineRec.take
  dsimp only
  have he : (r.expireWindow now).state = r.state := expireWindow_state r now
  rcases hst : r.state with d | e | d | ⟨d, st, ex⟩ | ⟨d, q⟩ <;> rw [hst] at he h <;> simp only [he]
  · simpa [he] using h
  · simp [LineState.level] at h
  · unfold LineRec.takeStable LineRec.due
    repeat' split
    all_goals simp_all [LineState.level]
  · unfold LineRec.takePending LineRec.due
    repeat' split
    all_goals simp_all [LineState.level]
  · unfold LineRec.takeChatter
    repeat' split
    all_goals simp_all [LineState.level]

/-- What a sample does to the level of a line, by the news it makes (R13, R15). -/
theorem take_level (r : LineRec) (now time x) :
   match (r.take now time x).2 with
   | some (.event (.change v _)) => (r.take now time x).1.state.level = some v
   | some (.event (.chatterStart _ _)) => (r.take now time x).1.state.level = r.state.level
   | some (.event (.chatterEnd v _ _)) => (r.take now time x).1.state.level = some v
   | some _ => r.state.level = none ∨ (r.take now time x).1.state.level = r.state.level
   | none => (r.take now time x).1.state.level = r.state.level := by
  unfold LineRec.take
  dsimp only
  have he : (r.expireWindow now).state = r.state := expireWindow_state r now
  generalize r.expireWindow now = r1 at he ⊢
  rcases hst : r.state with d | e | d | ⟨d, st, ex⟩ | ⟨d, q⟩ <;> rw [hst] at he <;> simp only [he]
  · unfold LineRec.takeInit
    dsimp only
    by_cases h0 : r1.config.debounce = 0
    · simp [h0, LineState.level]
    · simp only [h0, if_false]
      rcases e with _ | e
      · simp [LineState.level]
      · simp only
        by_cases h1 : r1.isEdge x = true
        · simp [h1, LineState.level]
        · by_cases h2 : e ≤ now
          · simp [h1, h2, LineState.level]
          · simp [h1, h2, LineState.level, he]
  · unfold LineRec.takeStable
    by_cases h0 : r1.input x = d
    · simp [h0, he, LineState.level]
    · simp only [h0, if_false]
      by_cases h1 : r1.config.debounce = 0
      · rw [if_pos h1]
        unfold LineRec.due
        by_cases hc : r1.config.chatterLimit ≠ 0 ∧ r1.config.chatterLimit < r1.chatterCount + 1
        · rw [if_pos hc]; simp [LineState.level]
        · rw [if_neg hc]; simp [LineState.level]
      · simp [h1, LineState.level]
  · unfold LineRec.takePending
    by_cases h0 : r1.input x = d
    · simp [h0, LineState.level]
    · simp only [h0, if_false]
      by_cases h1 : ex ≤ now
      · rw [if_pos h1]
        unfold LineRec.due
        by_cases hc : r1.config.chatterLimit ≠ 0 ∧ r1.config.chatterLimit < r1.chatterCount + 1
        · rw [if_pos hc]; simp [LineState.level]
        · rw [if_neg hc]; simp [LineState.level]
      · simp [h1, LineState.level, he]
  · unfold LineRec.takeChatter
    by_cases h0 : r1.isEdge x = true
    · simp [h0, LineState.level]
    · simp only [h0]
      by_cases h1 : q ≤ now
      · simp [h1, LineState.level]
      · simp [h1, LineState.level, he]

theorem level_put (s : State) (l r) : (s.putLine l r).level = fun m => if m = l then r.state.level else s.level m
    := by
  funext m
  by_cases h : m = l
  · subst h; simp [State.level]
  · simp [State.level, h]

theorem shift_level (r : LineRec) (t) : (r.shiftStamp t).state.level = r.state.level := by
  unfold LineRec.shiftStamp
  split <;> simp_all [LineState.level]

/-- A sample is an event of the line at sample n. -/
def isEventAt (r : LineRec) (x : Bool) (n : Nat) : Prop := (∃ e, r.windowTimer = some e ∧ e ≤ n) ∨ match r.state with
          | .disabled _ => False
          | .init settle => r.lastRaw = some (!x) ∨ r.config.debounce = 0 ∨ ∃ e, settle = some e ∧ e ≤ n
          | .stable d => (x ^^ r.config.invert) ≠ d
          | .pending d _ expiry => (x ^^ r.config.invert) = d ∨ expiry ≤ n
          | .chatter _ quiet => r.lastRaw = some (!x) ∨ quiet ≤ n

theorem expired_window_iff (r : LineRec) (n) : expired n r.windowTimer = true ↔ ∃ e, r.windowTimer = some e ∧ e ≤ n
    := by
  unfold expired; rcases hw : r.windowTimer with _ | e <;> simp

theorem eventful_iff (r : LineRec) (x n) : r.eventful n x = true ↔ isEventAt r x n := by
  unfold LineRec.eventful isEventAt
  rw [Bool.or_eq_true, expired_window_iff]
  rcases hst : r.state with d | e | d | ⟨d, st, ex⟩ | ⟨d, q⟩ 
  · simp
  · rcases e with _ | e <;> simp [isEdge_iff, expired]
    rw [or_assoc, or_comm (a := e ≤ n)]
  · simp only [decide_eq_true_eq]; rfl
  · simp only [decide_eq_true_eq, Bool.or_eq_true]; rfl
  · simp [isEdge_iff]

/-- The line state after a sample that is no event: only a first settle timer starts (R5). -/
def quietState (r : LineRec) (n : Nat) : LineState := match r.state with
          | .init none => .init (some (n + 4 * r.config.debounce))
          | .init (some e) => .init (some e)
          | .disabled d => .disabled d
          | .stable d => .stable d
          | .pending d stamp expiry => .pending d stamp expiry
          | .chatter d quiet => .chatter d quiet

/-- A sample that is an event waits for the line (log 4). -/
theorem offer_event {r : LineRec} {x n t} (h : isEventAt r x n) : r.offer n t x = { r with waiting := some x } := by
  rw [LineRec.offer, if_pos ((eventful_iff r x n).mpr h)]

/-- A sample that is no event is taken at once (log 4). -/
theorem offer_quiet {r : LineRec} {x n t} (h : ¬ isEventAt r x n) : r.offer n t x = r.left x (quietState r n) := by
  rw [LineRec.offer, if_neg (fun hc => h ((eventful_iff r x n).mp hc))]
  unfold isEventAt at h
  rw [not_or] at h
  obtain ⟨hnw, h⟩ := h
  have hew : r.expireWindow n = r := by
    rw [LineRec.expireWindow, if_neg (fun hc => hnw ((expired_window_iff r n).mp hc))]
  unfold LineRec.take
  dsimp only
  rw [hew]
  rcases r with ⟨c, d | e | d | ⟨d, st, ex⟩ | ⟨d, q⟩, lr, w, cc, wt, ed⟩
  · rfl
  · simp only [not_or] at h
    obtain ⟨h1, h2, h3⟩ := h
    rcases e with _ | e
    · simp [LineRec.takeInit, h2, LineRec.left, quietState, Config.samplesPerMs]
    · have : ¬ e ≤ n := fun hc => h3 ⟨e, rfl, hc⟩
      simp [LineRec.takeInit, h2, LineRec.left, quietState, LineRec.isEdge, h1, this]
  · simp only [not_not] at h
    simp [LineRec.takeStable, LineRec.input, h, LineRec.left, quietState]
  · simp only [not_or] at h
    simp [LineRec.takePending, LineRec.input, h.1, LineRec.left, quietState, h.2]
  · simp only [not_or] at h
    simp [LineRec.takeChatter, LineRec.isEdge, h.1, LineRec.left, quietState, h.2]

/-- A sample that comes changes no known level before it is taken. -/
theorem offer_level (r : LineRec) (now time x) (h : r.state.level ≠ none) : (r.offer now time x).state.level
    = r.state.level := by
  by_cases he : isEventAt r x now
  · rw [offer_event he]
  · rw [offer_quiet he]
    simp only [LineRec.left, quietState]
    rcases hst : r.state with d | e | d | ⟨d, st, ex⟩ | ⟨d, q⟩ <;> simp [LineState.level, hst] at h ⊢

end Sys2Proof.Machine
end

