-- ==== Sys2Proof/Laws/Frames.lean ====
section
/-! SUPPORT. What each shared operation leaves alone, in the groups of `Block`. -/

namespace Sys2Proof.Machine

open Sys2Proof

theorem changesOnly_refl (s : State) (bs) : s.changesOnly bs s := by
  intro b _; cases b <;> first | exact ⟨rfl, rfl⟩ | exact ⟨rfl, rfl, rfl, rfl, rfl, rfl⟩ | exact rfl

theorem Block.same_trans {s t u : State} {b : Block} (h1 : b.same s t) (h2 : b.same t u) : b.same s u := by
  cases b <;> simp only [Block.same] at * <;> simp_all

theorem changesOnly_trans {s t u : State} {bs} (h1 : s.changesOnly bs t)
    (h2 : t.changesOnly bs u) : s.changesOnly bs u :=
  fun b hb => Block.same_trans (h1 b hb) (h2 b hb)

theorem changesOnly_mono {s t : State} {bs cs} (h : s.changesOnly bs t) (hs : ∀ b ∈ bs, b ∈ cs) : s.changesOnly cs t
    :=
  fun b hb => h b (fun hc => hb (hs b hc))

/-- The frame as a list of equations. -/
theorem co_iff (s t : State) (bs) : s.changesOnly bs t ↔ 
   (Block.clock ∈ bs ∨ Block.clock.same s t) ∧ (Block.reset ∈ bs ∨ Block.reset.same s t) ∧ (Block.lines ∈ bs ∨ Block.lines.same s t) ∧ (Block.sets ∈ bs ∨ Block.sets.same s t) ∧
   (Block.outputs ∈ bs ∨ Block.outputs.same s t) ∧ (Block.sessions ∈ bs ∨ Block.sessions.same s t) ∧ (Block.journals ∈ bs ∨ Block.journals.same s t) ∧ (Block.engines ∈ bs ∨ Block.engines.same s t) ∧
   (Block.ports ∈ bs ∨ Block.ports.same s t) ∧ (Block.orders ∈ bs ∨ Block.orders.same s t) ∧ (Block.queue ∈ bs ∨ Block.queue.same s t) := by
  constructor
  · intro h; refine ⟨?_, ?_, ?_, ?_, ?_, ?_, ?_, ?_, ?_, ?_, ?_⟩ <;> exact Classical.or_iff_not_imp_left.mpr (h _)
  · rintro ⟨a, b, c, d, e, f, g, h, i, j, k⟩ x hx
    cases x <;> exact (by assumption : _ ∨ _).resolve_left hx

/-- The groups that hearing news may change. -/
def hearBlocks : List Block := [.sets, .outputs, .sessions, .journals, .engines]

/-- The groups that an output may change when it hears news. -/
def outputBlocks : List Block := [.outputs, .sessions, .journals, .engines]

theorem append_only (s : State) (p r) : s.changesOnly [.journals] (s.append p r) := by
  rw [co_iff]; simp [State.append, Block.same]

theorem raiseStatus_only (s : State) (p) : s.changesOnly [.engines] (s.raiseStatus p) := by
  rw [co_iff]; simp [State.raiseStatus, Block.same]

theorem noteLoss_only (s : State) (p) : s.changesOnly [.sessions, .engines] (s.noteLoss p) := by
  unfold State.noteLoss; split
  · exact changesOnly_refl _ _
  · rw [co_iff]; simp [State.raiseStatus, Block.same]

theorem admitOrLose_only (s : State) (p r) : s.changesOnly [.sessions, .journals, .engines] (s.admitOrLose p r) := by
  rw [admitOrLose_eq, co_iff]; simp [Block.same]

theorem putSet_only (s : State) (w r) : s.changesOnly [.sets] (s.putSet w r) := by rw [co_iff]; simp [Block.same]

theorem putLine_only (s : State) (l r) : s.changesOnly [.lines] (s.putLine l r) := by rw [co_iff]; simp [Block.same]

theorem putOutput_only (s : State) (w r) : s.changesOnly [.outputs] (s.putOutput w r) := by
  rw [co_iff]; simp [Block.same]

theorem putEngine_only (s : State) (p e) : s.changesOnly [.engines] (s.putEngine p e) := by
  rw [co_iff]; simp [Block.same]

theorem putPort_only (s : State) (p e) : s.changesOnly [.ports] (s.putPort p e) := by rw [co_iff]; simp [Block.same]

theorem overrun_only (s : State) (w ws) : s.changesOnly [.sets, .engines] (s.overrunSet w ws) := by
  rw [co_iff]; simp [State.overrunSet, State.raiseStatus, Block.same]

theorem admitForSet_only (s : State) (w ws r) : s.changesOnly [.sets, .journals, .engines] (s.admitForSet w ws r)
    := by
  unfold State.admitForSet State.tryAdmit
  split
  · exact changesOnly_mono (append_only _ _ _) (by simp)
  · exact changesOnly_mono (overrun_only _ _ _) (by simp)

theorem hearLatest_only (s : State) (w ws l e) : s.changesOnly [.sets, .journals, .engines] (s.hearLatest w ws l e)
    := by
  unfold State.hearLatest
  split
  · split
    · rw [co_iff]; simp [Block.same]
    · exact admitForSet_only _ _ _ _
  · exact admitForSet_only _ _ _ _
  · exact admitForSet_only _ _ _ _

theorem hearSummary_only (s : State) (w ws l e) : s.changesOnly [.sets, .engines] (s.hearSummary w ws l e) := by
  unfold State.hearSummary
  dsimp only
  split
  · rw [co_iff]; simp [State.raiseStatus, Block.same]
  · exact changesOnly_refl _ _

theorem hearSet_only (s : State) (w l e) : s.changesOnly [.sets, .journals, .engines] (s.hearSet w l e) := by
  unfold State.hearSet
  split
  · exact changesOnly_refl _ _
  · split
    · split
      · exact admitForSet_only _ _ _ _
      · exact hearLatest_only _ _ _ _ _
      · exact changesOnly_mono (hearSummary_only _ _ _ _ _) (by simp)
    · exact changesOnly_refl _ _

theorem faultOutput_only (s : State) (o d) : s.changesOnly outputBlocks (s.faultOutput o d) := by
  unfold State.faultOutput
  dsimp only
  split
  · exact changesOnly_mono (putOutput_only _ _ _) (by simp [outputBlocks])
  · split
    · exact changesOnly_mono (putOutput_only _ _ _) (by simp [outputBlocks])
    · exact changesOnly_trans (changesOnly_mono (putOutput_only _ _ _) (by simp [outputBlocks])) (changesOnly_mono
      (admitOrLose_only _ _ _) (by simp [outputBlocks]))

theorem judgeOutput_only (s : State) (o d) : s.changesOnly outputBlocks (s.judgeOutput o d) := by
  unfold State.judgeOutput
  split
  · exact changesOnly_mono (putOutput_only _ _ _) (by simp [outputBlocks])
  · exact faultOutput_only _ _ _

theorem unverifyOutput_only (s : State) (o) : s.changesOnly outputBlocks (s.unverifyOutput o) := changesOnly_mono
    (putOutput_only _ _ _) (by simp [outputBlocks])

theorem hearOutput_only (s : State) (o n) : s.changesOnly outputBlocks (s.hearOutput o n) := by
  unfold State.hearOutput State.hearWaiting State.hearDeferred State.hearOk State.hearUnverified
  split <;> (try split) <;> first | exact changesOnly_refl _ _ | exact judgeOutput_only _ _ _ | exact unverifyOutput_only _ _

theorem hear_only (s : State) (l n h) : s.changesOnly hearBlocks (State.hear l n s h) := by
  unfold State.hear
  split
  · split <;> first | exact changesOnly_refl _ _ | exact changesOnly_mono (hearSet_only _ _ _ _) (by simp [hearBlocks])
  · exact changesOnly_mono (hearOutput_only _ _ _) (by simp [hearBlocks, outputBlocks])

theorem foldl_only {α : Type} (f : State → α → State) (bs : List Block) (h : ∀ (s : State) a, s.changesOnly bs
    (f s a)) (xs : List α) (s : State) : s.changesOnly bs (xs.foldl f s) := by
  induction xs generalizing s with
  | nil => exact changesOnly_refl _ _
  | cons x xs ih => exact changesOnly_trans (h s x) (ih _)

/-- Telling news changes what its hearers change. -/
theorem tell_only (s : State) (l n) : s.changesOnly (.orders :: hearBlocks) (s.tell l n) := by
  unfold State.tell
  refine changesOnly_trans (t := { s with choice := s.choice + 1 }) ?_ (changesOnly_mono (foldl_only _ hearBlocks (fun s a => hear_only s l n a) _ _) (by simp; tauto))
  rw [co_iff]; simp [Block.same]

theorem tell_lines (s : State) (l n) : (s.tell l n).lines = s.lines := tell_only s l n .lines (by simp [hearBlocks])

theorem hear_output_only (s : State) (l n o) : s.changesOnly outputBlocks (State.hear l n s (.output o))
    := hearOutput_only _ _ _

theorem tell_unset_only {s : State} {l : LineId} {n : LineNews} (h : s.hearers l n =
    (l.sensed.map Hearer.output).toList) : s.changesOnly (.orders :: outputBlocks) (s.tell l n) := by
  rcases ho : l.sensed with _ | o
  · rw [tell_none (by rw [h, ho]; rfl)]; rw [co_iff]; simp [Block.same]
  · rw [tell_one (x := .output o) (by rw [h, ho]; rfl)]
    exact changesOnly_trans (t := { s with choice := s.choice + 1 }) (by rw [co_iff]; simp [Block.same]) (changesOnly_mono (hear_output_only _ _ _ _) (by simp; tauto))

theorem takeLine_only (s : State) (l) : s.changesOnly (.lines :: .orders :: hearBlocks) (s.takeLine l) := by
  unfold State.takeLine
  dsimp only
  split
  · exact changesOnly_refl _ _
  · split
    · exact changesOnly_mono (putLine_only _ _ _) (by simp)
    · exact changesOnly_trans (changesOnly_mono (putLine_only _ _ _) (by simp)) (changesOnly_mono (tell_only _ _ _) (by simp; tauto))

/-- Finishing a sample changes what the lines and their neighbours change. -/
theorem finishSample_only (s : State) : s.changesOnly (.lines :: .orders :: hearBlocks) s.finishSample := by
  unfold State.finishSample
  split
  · exact changesOnly_refl _ _
  · refine changesOnly_trans (t := { s with choice := s.choice + 1 }) ?_ (foldl_only _ _ takeLine_only _ _)
    rw [co_iff]; simp [Block.same]

theorem verifyOutput_only (s : State) (o) : s.changesOnly outputBlocks (s.verifyOutput o) := by
  unfold State.verifyOutput
  split
  · split
    · exact judgeOutput_only _ _ _
    · exact changesOnly_mono (putOutput_only _ _ _) (by simp [outputBlocks])
    · exact unverifyOutput_only _ _
    · exact unverifyOutput_only _ _
    · exact unverifyOutput_only _ _
  · exact changesOnly_refl _ _

theorem teardown_only (s : State) (p) : s.changesOnly hearBlocks (s.teardown p) := by
  rw [co_iff]; simp [State.teardown, State.updateSets, State.updateOutputs, Block.same, hearBlocks]

theorem lapse_only (s : State) (p w) : s.changesOnly hearBlocks (s.lapse p w) := by
  unfold State.lapse
  split
  · exact changesOnly_refl _ _
  · exact changesOnly_refl _ _
  · split
    · exact teardown_only _ _
    · rw [co_iff]; simp [State.updateOutputs, Block.same, hearBlocks]

theorem expireRetransmit_only (s : State) (p) : s.changesOnly hearBlocks (s.expireRetransmit p) := by
  unfold State.expireRetransmit
  dsimp only
  split
  · split
    · exact changesOnly_mono (putEngine_only _ _ _) (by simp [hearBlocks])
    · split
      · exact changesOnly_trans (changesOnly_mono (putEngine_only _ _ _) (by simp [hearBlocks])) (lapse_only _ _ _)
      · exact changesOnly_trans (changesOnly_mono (putEngine_only _ _ _) (by simp [hearBlocks])) (changesOnly_mono
        (putEngine_only _ _ _) (by simp [hearBlocks]))
  · exact changesOnly_refl _ _

theorem markTime_rest (old new) (s : State) (p) :
   State.markTime old new s p = { s with journals := (State.markTime old new s p).journals, sessions := (State.markTime old new s p).sessions, engines := (State.markTime old new s p).engines } := by
  unfold State.markTime
  rcases hst : (s.sessions.at p).state with _ | _ | _
  · simp
  all_goals
    simp only [admitOrLose_eq]

/-- SET_TIME leaves sets, outputs, ports and reset alone. -/
theorem setTime_rest (s : State) (new : Time) : s.changesOnly [.clock, .lines, .sessions, .journals, .engines,
    .orders] (s.setTime new) := by
  unfold State.setTime
  dsimp only
  refine changesOnly_trans (t := ({ s with time := new, choice := s.choice + 1 } : State).updateLines fun _ r => r.shiftStamp (new - s.time)) (by rw [co_iff]; simp [Block.same, State.updateLines]) ?_
  refine foldl_only _ _ ?_ _ _
  intro u q
  rw [markTime_rest, co_iff]; simp [Block.same]

theorem reconfigureOutputs_only (s : State) (n) : s.changesOnly outputBlocks (s.reconfigureOutputs n) := by
  unfold State.reconfigureOutputs
  refine foldl_only _ _ ?_ _ _
  intro u o; split
  · exact hearOutput_only _ _ _
  · exact changesOnly_refl _ _

theorem foldRecords_only (s : State) (p) (rs : List Rec) : s.changesOnly [.sets] (rs.foldl (State.foldRecord p) s)
    := by
  rw [foldl_foldRecord, co_iff]; simp [Block.same]

/-- The groups that a due event may change. -/
def dueBlocks : List Block := [.lines, .sets, .outputs, .sessions, .journals, .engines, .ports, .orders]

theorem takeDue_only (s : State) (d) : s.changesOnly dueBlocks (s.takeDue d) := by
  unfold State.takeDue
  split
  · exact changesOnly_mono (takeLine_only _ _) (by simp [dueBlocks, hearBlocks])
  · exact changesOnly_mono (verifyOutput_only _ _) (by simp [dueBlocks, outputBlocks])
  · exact changesOnly_mono (putOutput_only _ _ _) (by simp [dueBlocks])
  · exact changesOnly_mono (expireRetransmit_only _ _) (by simp [dueBlocks, hearBlocks])
  · unfold State.expireSilence; split
    · exact changesOnly_mono (lapse_only _ _ _) (by simp [dueBlocks, hearBlocks])
    · exact changesOnly_refl _ _
  · unfold State.expireRetain; split
    · exact changesOnly_mono (teardown_only _ _) (by simp [dueBlocks, hearBlocks])
    · exact changesOnly_refl _ _
  · unfold State.expireGap; split
    · exact changesOnly_mono (putPort_only _ _ _) (by simp [dueBlocks])
    · exact changesOnly_refl _ _

theorem takeAllDue_only (s : State) : s.changesOnly dueBlocks s.takeAllDue := by
  unfold State.takeAllDue
  refine changesOnly_trans (t := { s with choice := s.choice + 1 }) ?_ (foldl_only _ _ takeDue_only _ _)
  rw [co_iff]; simp [Block.same, dueBlocks]

theorem takeDue_running (s : State) (d) : (s.takeDue d).resetPeriod = s.resetPeriod := (takeDue_only s d .reset
    (by simp [dueBlocks])).2.2.1

theorem handOn_only (s : State) (p f) : s.changesOnly [.sessions, .ports] (s.handOn p f) := by
  unfold State.handOn
  have : s.changesOnly [.sessions] (s.restartSilence p) := by
    unfold State.restartSilence; split
    · exact changesOnly_refl _ _
    · exact changesOnly_refl _ _
    · rw [co_iff]; simp [Block.same]
  refine changesOnly_trans (changesOnly_mono this (by simp)) ?_
  dsimp only
  split <;> exact changesOnly_mono (putPort_only _ _ _) (by simp)

theorem takeCharacter_only (s : State) (p c) : s.changesOnly [.sessions, .ports] (s.takeCharacter p c) := by
  unfold State.takeCharacter
  have P : ∀ (u : State) r, u.changesOnly [.sessions, .ports] (u.putPort p r) := fun u r => changesOnly_mono (putPort_only _ _ _) (by simp)
  dsimp only
  split
  · split
    · exact P _ _
    · exact changesOnly_refl _ _
  · unfold State.takeLength; split <;> exact P _ _
  · exact P _ _
  · exact P _ _
  · unfold State.takeCheck; split
    · exact changesOnly_trans (P _ _) (handOn_only _ _ _)
    · exact P _ _

theorem takeFramingError_only (s : State) (p) : s.changesOnly [.ports] (s.takeFramingError p) := by
  unfold State.takeFramingError; split <;> first | exact changesOnly_refl _ _ | exact putPort_only _ _ _

theorem receive_only (s : State) (p c x) : s.changesOnly [.sessions, .ports] (s.receive p c x) := by
  unfold State.receive
  split
  · exact changesOnly_refl _ _
  · split
    · exact takeCharacter_only _ _ _
    · exact changesOnly_mono (takeFramingError_only _ _) (by simp)
    · exact changesOnly_trans (changesOnly_mono (takeFramingError_only _ _) (by simp)) (changesOnly_mono
      (putPort_only _ _ _) (by simp))

theorem buildNotice_only (s : State) (p) : s.changesOnly [.ports, .journals, .engines] (s.buildNotice p) := by
  unfold State.buildNotice; split
  · exact changesOnly_refl _ _
  · split
    · rw [co_iff]; simp [State.sendNotice, Block.same]
    · exact changesOnly_refl _ _

theorem sendResponse_only (s : State) (p) : s.changesOnly [.ports] (s.sendResponse p) := by
  unfold State.sendResponse; dsimp only; split <;> first | exact changesOnly_refl _ _ | exact putPort_only _ _ _

theorem endFrame_only (s : State) (p) : s.changesOnly [.ports] (s.endFrame p) := by
  unfold State.endFrame; split <;> first | exact changesOnly_refl _ _ | exact putPort_only _ _ _

theorem expireGap_only (s : State) (p) : s.changesOnly [.ports] (s.expireGap p) := by
  unfold State.expireGap; split <;> first | exact changesOnly_refl _ _ | exact putPort_only _ _ _

end Sys2Proof.Machine
end

