-- ==== Sys2Proof/Laws/Steps.lean ====
section
/-! SUPPORT. Everything a step can do, said once: a property that the parts of every command keep is kept by every
step. -/

namespace Sys2Proof.Machine

open Sys2Proof

/-- The own rule of each request kind. -/
def ReqKind.rule : ReqKind → Port → List Byte → State → Answer
  | .hello => helloOwn | .openSession => openOwn | .close => closeOwn | .ping => pingOwn | .setTime => setTimeOwn
  | .configLine => configLineOwn | .readLineConfig => readLineConfigOwn | .readLines => readLinesOwn
  | .readCounters => readCountersOwn | .defineSet => defineSetOwn | .armSet => armSetOwn | .disarmSet => disarmSetOwn
  | .deleteSet => deleteSetOwn | .readSet => readSetOwn | .ackSet => ackSetOwn | .resyncSet => resyncSetOwn
  | .adoptSet => adoptSetOwn | .ack => ackOwn | .journalStatus => journalStatusOwn | .claimOutput => claimOutputOwn
  | .releaseOutput => releaseOutputOwn | .configOutput => configOutputOwn | .writeOutputs => writeOutputsOwn
  | .readOutputs => readOutputsOwn | .restart => restartOwn

/-- A request command takes a request. -/
theorem exec_take (k : ReqKind) (p : Port) (s : State) : exec (k.command p) s = .next (takeRequest k
    (ReqKind.rule k) p s) := by
  cases k <;> rfl

/-- Every command, by the operation it calls. -/
theorem cmd_cases (c : Instr) : (∃ k p, c = ReqKind.command p k) ∨ (∃ p, c = .reject p) ∨
   (∃ l, c = .rawEdge l ∨ c = .settleExpiry l ∨ c = .debounceExpiry l ∨ c = .quietExpiry l) ∨ (∃ l, c = .chatterWindowExpiry l) ∨
   (∃ p, c = .noticeBuild p ∨ c = .retransmitExpiry p ∨ c = .silenceExpiry p ∨ c = .retainExpiry p ∨ c = .gapExpiry p ∨ c = .responseSend p ∨ c = .frameEnd p ∨ c = .lineReturnsToIdle p) ∨
   (∃ o, c = .graceExpiry o ∨ c = .verifyExpiry o) ∨ (∃ p b x, c = .characterReceived p b x) ∨ (∃ p x, c = .restartReset p x) ∨
   (∃ x, c = .powerOn x ∨ c = .rstnHigh x ∨ c = .supplyDipEnd x) ∨ c = .rstnLow ∨ c = .supplyDip ∨ c = .supplyBelowPowerOn ∨ ∃ raw, c = .sample raw := by
  cases c
  case hello p => exact Or.inl ⟨.hello, p, rfl⟩
  case openSession p => exact Or.inl ⟨.openSession, p, rfl⟩
  case close p => exact Or.inl ⟨.close, p, rfl⟩
  case ping p => exact Or.inl ⟨.ping, p, rfl⟩
  case setTime p => exact Or.inl ⟨.setTime, p, rfl⟩
  case configLine p => exact Or.inl ⟨.configLine, p, rfl⟩
  case readLineConfig p => exact Or.inl ⟨.readLineConfig, p, rfl⟩
  case readLines p => exact Or.inl ⟨.readLines, p, rfl⟩
  case readCounters p => exact Or.inl ⟨.readCounters, p, rfl⟩
  case defineSet p => exact Or.inl ⟨.defineSet, p, rfl⟩
  case armSet p => exact Or.inl ⟨.armSet, p, rfl⟩
  case disarmSet p => exact Or.inl ⟨.disarmSet, p, rfl⟩
  case deleteSet p => exact Or.inl ⟨.deleteSet, p, rfl⟩
  case readSet p => exact Or.inl ⟨.readSet, p, rfl⟩
  case ackSet p => exact Or.inl ⟨.ackSet, p, rfl⟩
  case resyncSet p => exact Or.inl ⟨.resyncSet, p, rfl⟩
  case adoptSet p => exact Or.inl ⟨.adoptSet, p, rfl⟩
  case ack p => exact Or.inl ⟨.ack, p, rfl⟩
  case journalStatus p => exact Or.inl ⟨.journalStatus, p, rfl⟩
  case claimOutput p => exact Or.inl ⟨.claimOutput, p, rfl⟩
  case releaseOutput p => exact Or.inl ⟨.releaseOutput, p, rfl⟩
  case configOutput p => exact Or.inl ⟨.configOutput, p, rfl⟩
  case writeOutputs p => exact Or.inl ⟨.writeOutputs, p, rfl⟩
  case readOutputs p => exact Or.inl ⟨.readOutputs, p, rfl⟩
  case restart p => exact Or.inl ⟨.restart, p, rfl⟩
  all_goals simp

theorem teardown_ports (s : State) (p) : (s.teardown p).ports = s.ports := teardown_only s p .ports
    (by simp [hearBlocks])

theorem freshOpen_ports (s : State) (p prm) : (s.freshOpen p prm).ports = s.ports := by simp [State.freshOpen]

theorem resume_ports (s : State) (p prm prm') : (s.resume p prm prm').ports = s.ports := by
  simp [State.resume, State.updateOutputs]

theorem rule_ports {k : ReqKind} (hk : k ≠ .restart) (p : Port) (payload : List Byte) (s : State) :
    (ReqKind.rule k p payload s).state.ports = s.ports := by
  cases k
  case restart => exact absurd rfl hk
  case hello => rfl
  case openSession =>
    simp only [ReqKind.rule, openOwn]
    repeat' split
    all_goals simp [openFresh, openResume, accept, refuse, freshOpen_ports, teardown_ports, resume_ports]
  case close => rfl
  case ping => rfl
  case setTime => exact setTime_rest s _ .ports (by simp)
  case configLine =>
    simp only [ReqKind.rule, configLineOwn]
    split
    · rfl
    · split
      · rfl
      · split
        · rfl
        · exact reconfigureOutputs_only _ _ .ports (by simp [outputBlocks])
  case readLineConfig => simp only [ReqKind.rule, readLineConfigOwn]; split <;> rfl
  case readLines => exact finishSample_only s .ports (by simp [hearBlocks])
  case readCounters =>
    simp only [ReqKind.rule, readCountersOwn]
    split
    · simp only [accept]; split <;> rfl
    · rfl
    · rfl
  case defineSet => simp only [ReqKind.rule, defineSetOwn]; repeat' (first | rfl | split)
  case armSet => simp only [ReqKind.rule, armSetOwn, ownSet]; repeat' (first | rfl | split)
  case disarmSet => simp only [ReqKind.rule, disarmSetOwn, ownSet]; repeat' (first | rfl | split)
  case deleteSet => simp only [ReqKind.rule, deleteSetOwn, ownSet]; repeat' (first | rfl | split)
  case readSet => simp only [ReqKind.rule, readSetOwn]; repeat' (first | rfl | split)
  case ackSet => simp only [ReqKind.rule, ackSetOwn, ownSet]; repeat' (first | rfl | split)
  case resyncSet =>
    have : ∀ w ws, (s.resyncRecords p w ws).state.ports = s.ports := by
      intro w ws; simp only [State.resyncRecords, State.tryAdmit]
      split
      · rfl
      · rename_i heq; split at heq
        · injection heq with heq; subst heq; rfl
        · simp at heq
    simp only [ReqKind.rule, resyncSetOwn, ownSet]; repeat' (first | rfl | exact this _ _ | split)
  case adoptSet => simp only [ReqKind.rule, adoptSetOwn]; repeat' (first | rfl | split)
  case ack =>
    simp only [ReqKind.rule, ackOwn]
    split
    · rfl
    · simp only [accept, State.acknowledge]
      split
      · rfl
      · exact foldRecords_only _ _ _ .ports (by simp)
  case journalStatus =>
    simp only [ReqKind.rule, journalStatusOwn]
    split
    · rfl
    · simp only [accept]; split <;> rfl
  case claimOutput => simp only [ReqKind.rule, claimOutputOwn]; repeat' (first | rfl | split)
  case releaseOutput => simp only [ReqKind.rule, releaseOutputOwn]; repeat' (first | rfl | split)
  case configOutput => simp only [ReqKind.rule, configOutputOwn]; repeat' (first | rfl | split)
  case writeOutputs => simp only [ReqKind.rule, writeOutputsOwn]; repeat' (first | rfl | split)
  case readOutputs => simp only [ReqKind.rule, readOutputsOwn]; repeat' (first | rfl | split)

theorem rule_responses (k : ReqKind) (p : Port) (payload : List Byte) (s : State) :
    ((ReqKind.rule k p payload s).state.ports.at p).responses = (s.ports.at p).responses ∧
      ((ReqKind.rule k p payload s).state.ports.at p.other) = (s.ports.at p.other) ∧
    ((ReqKind.rule k p payload s).state.ports.at p).requests = (s.ports.at p).requests := by
  by_cases hk : k = .restart
  · subst hk
    simp only [ReqKind.rule, restartOwn]
    repeat' (first | exact ⟨rfl, rfl, rfl⟩ | split)
    simp [accept]
  · rw [rule_ports hk]; exact ⟨rfl, rfl, rfl⟩

/-- The groups that the own rule of a kind may change. -/
def ReqKind.writes : ReqKind → List Block
  | .hello | .ping | .readLineConfig | .readSet => []
  | .readLines => [.lines, .orders, .sets, .outputs, .sessions, .journals, .engines]
  | .openSession | .close => [.sets, .outputs, .sessions, .journals, .engines]
  | .setTime => [.clock, .lines, .sessions, .journals, .engines, .orders]
  | .configLine => [.lines, .outputs, .sessions, .journals, .engines]
  | .readCounters => [.lines]
  | .defineSet | .armSet | .deleteSet | .ackSet => [.sets]
  | .disarmSet | .resyncSet => [.sets, .journals]
  | .adoptSet => [.sets, .journals, .sessions, .engines]
  | .ack => [.sets, .journals, .engines]
  | .journalStatus => [.sessions]
  | .claimOutput => [.outputs, .sessions]
  | .releaseOutput | .writeOutputs | .configOutput | .readOutputs => [.outputs]
  | .restart => [.ports]

theorem disarmSetRule_only (p : Port) (payload : List Byte) (s : State) : s.changesOnly (ReqKind.writes .disarmSet)
    (ReqKind.rule .disarmSet p payload s).state := by
  simp only [ReqKind.rule, disarmSetOwn, ownSet]
  repeat' (first | exact changesOnly_refl s _ | (rw [co_iff]; simp [accept, State.voidSet, Block.same, ReqKind.writes]; done) | split)

theorem adoptSetRule_only (p : Port) (payload : List Byte) (s : State) : s.changesOnly (ReqKind.writes .adoptSet)
    (ReqKind.rule .adoptSet p payload s).state := by
  simp only [ReqKind.rule, adoptSetOwn]
  repeat' (first | exact changesOnly_refl s _ | (rw [co_iff]; simp [accept, State.adopt, State.voidSet, State.raiseStatus, Block.same, ReqKind.writes]; done) | split)

theorem claimOutputRule_only (p : Port) (payload : List Byte) (s : State) : s.changesOnly (ReqKind.writes .claimOutput)
    (ReqKind.rule .claimOutput p payload s).state := by
  simp only [ReqKind.rule, claimOutputOwn]
  repeat' (first | exact changesOnly_refl s _ | (rw [co_iff]; simp [accept, State.claim, State.updateOutputs, Block.same, ReqKind.writes]; done) | split)

theorem releaseOutputRule_only (p : Port) (payload : List Byte) (s : State) : s.changesOnly (ReqKind.writes .releaseOutput)
    (ReqKind.rule .releaseOutput p payload s).state := by
  simp only [ReqKind.rule, releaseOutputOwn]
  repeat' (first | exact changesOnly_refl s _ | (rw [co_iff]; simp [accept, State.updateOutputs, Block.same, ReqKind.writes]; done) | split)

theorem writeOutputsRule_only (p : Port) (payload : List Byte) (s : State) : s.changesOnly (ReqKind.writes .writeOutputs)
    (ReqKind.rule .writeOutputs p payload s).state := by
  simp only [ReqKind.rule, writeOutputsOwn]
  repeat' (first | exact changesOnly_refl s _ | (rw [co_iff]; simp [accept, State.updateOutputs, Block.same, ReqKind.writes]; done) | split)

theorem readOutputsRule_only (p : Port) (payload : List Byte) (s : State) : s.changesOnly (ReqKind.writes .readOutputs)
    (ReqKind.rule .readOutputs p payload s).state := by
  simp only [ReqKind.rule, readOutputsOwn]
  repeat' (first | exact changesOnly_refl s _ | (rw [co_iff]; simp [accept, State.updateOutputs, Block.same, ReqKind.writes]; done) | split)

/-- The own rule of a kind changes nothing else. -/
theorem rule_only (k : ReqKind) (p : Port) (payload : List Byte) (s : State) : s.changesOnly (ReqKind.writes k)
    (ReqKind.rule k p payload s).state := by
  have R : ∀ bs, s.changesOnly bs s := changesOnly_refl s
  cases k
  case hello => exact R _
  case openSession =>
    have h1 : ∀ (u : State) prm, u.changesOnly hearBlocks (u.freshOpen p prm) := by
      intro u prm; rw [co_iff]; simp [State.freshOpen, Block.same, hearBlocks]
    have h2 : ∀ (u : State) a b, u.changesOnly hearBlocks (u.resume p a b) := by
      intro u a b; rw [co_iff]; simp [State.resume, State.updateOutputs, Block.same, hearBlocks]
    have h3 := teardown_only s p
    simp only [ReqKind.rule, openOwn]
    split
    · split
      · exact h1 s _
      · split
        · exact changesOnly_trans h3 (h1 (s.teardown p) _)
        · exact R _
      · split
        · exact h2 s _ _
        · exact changesOnly_trans h3 (h1 (s.teardown p) _)
    · exact R _
    · exact R _
  case close => exact teardown_only s p
  case ping => exact R _
  case setTime => exact setTime_rest s _
  case configLine =>
    simp only [ReqKind.rule, configLineOwn]
    repeat' split
    all_goals first
      | exact R _
      | skip
    refine changesOnly_trans (t := s.updateLines _) ?_ (changesOnly_mono (reconfigureOutputs_only _ _)
      (by simp [outputBlocks, ReqKind.writes]))
    rw [co_iff]; simp [State.updateLines, Block.same, ReqKind.writes]
  case readLineConfig => simp only [ReqKind.rule, readLineConfigOwn]; split <;> exact R _
  case readLines => exact finishSample_only s
  case readCounters =>
    simp only [ReqKind.rule, readCountersOwn]
    split
    · simp only [accept]; split
      · rw [co_iff]; simp [State.updateLines, Block.same, ReqKind.writes]
      · exact R _
    · exact R _
    · exact R _
  case defineSet => simp only [ReqKind.rule, defineSetOwn]; repeat' (first | exact R _ | exact putSet_only _ _ _ | split)
  case armSet => simp only [ReqKind.rule, armSetOwn, ownSet]; repeat' (first | exact R _ | exact putSet_only _ _ _ | split)
  case disarmSet => exact disarmSetRule_only p payload s
  case deleteSet => simp only [ReqKind.rule, deleteSetOwn, ownSet]; repeat' (first | exact R _ | exact putSet_only _ _ _ | split)
  case readSet => simp only [ReqKind.rule, readSetOwn]; repeat' (first | exact R _ | split)
  case ackSet => simp only [ReqKind.rule, ackSetOwn, ownSet]; repeat' (first | exact R _ | exact putSet_only _ _ _ | split)
  case resyncSet =>
    have : ∀ w ws, s.changesOnly [.sets, .journals] (s.resyncRecords p w ws).state := by
      intro w ws; simp only [State.resyncRecords, State.tryAdmit]
      split
      · exact R _
      · rename_i heq; split at heq
        · injection heq with heq; subst heq; rw [co_iff]; simp [accept, State.append, Block.same]
        · simp at heq
    simp only [ReqKind.rule, resyncSetOwn, ownSet]; repeat' (first | exact R _ | exact this _ _ | exact changesOnly_mono (putSet_only _ _ _) (by simp [ReqKind.writes]) | split)
  case adoptSet => exact adoptSetRule_only p payload s
  case ack =>
    simp only [ReqKind.rule, ackOwn]
    split
    · exact R _
    · simp only [accept, State.acknowledge]
      split
      · exact R _
      · refine changesOnly_trans (changesOnly_mono (foldRecords_only s p (List.map Sent.entry (List.take
        ((s.journals.at p).inflight.length - s.ackDistance p (BitVec.ofNat 16 (argLe payload 0 2)))
          (s.journals.at p).inflight))) (by simp [ReqKind.writes])) ?_
        rw [co_iff]; simp [Block.same, ReqKind.writes]
  case journalStatus =>
    simp only [ReqKind.rule, journalStatusOwn]
    split
    · exact R _
    · simp only [accept]; split
      · rw [co_iff]; simp [Block.same, ReqKind.writes]
      · exact R _
  case claimOutput => exact claimOutputRule_only p payload s
  case releaseOutput => exact releaseOutputRule_only p payload s
  case configOutput =>
    simp only [ReqKind.rule, configOutputOwn]; repeat' (first | exact R _ | exact putOutput_only _ _ _ | split)
  case writeOutputs => exact writeOutputsRule_only p payload s
  case readOutputs => exact readOutputsRule_only p payload s
  case restart =>
    simp only [ReqKind.rule, restartOwn]; repeat' (first | exact R _ | exact putPort_only _ _ _ | split)

theorem rule_running (k p pl) (s : State) : (ReqKind.rule k p pl s).state.resetPeriod = s.resetPeriod :=
  (rule_only k p pl s .reset (by cases k <;> simp [ReqKind.writes])).2.2.1

/-- What every line keeps as it takes its sample, the finishing of a sample keeps. -/
theorem finishSample_keeps {P : State → Prop} (hl : ∀ (s : State) l, s.resetPeriod = none → P s → P (s.takeLine l))
    (hc : ∀ (s : State) n, s.resetPeriod = none → P s → P { s with choice := n }) (s : State) (hr : s.resetPeriod = none)
    (h : P s) : P s.finishSample := by
  unfold State.finishSample
  split
  · exact h
  · rename_i l ls _
    exact (foldl_arrange_keeps (fun t : State => t.resetPeriod = none ∧ P t) State.takeLine s.choice (l :: ls)
      { s with choice := s.choice + 1 } ⟨hr, hc s _ hr h⟩ fun l _ t ht => ⟨(takeLine_only t l .reset (by simp [hearBlocks])).2.2.1.trans ht.1, hl t l ht.1 ht.2⟩).2

/-- The property is kept by every part of every command: requests, events, the sample and reset. -/
structure Closed (P : State → Prop) : Prop where
  own : ∀ (k : ReqKind) (p : Port) (payload : List Byte) (s : State), s.resetPeriod = none → P s → (k.needsSession = true → s.isOpen p = true) →
     payload.length = k.length → P (ReqKind.rule k p payload s).state
  pop : ∀ (s : State) p, s.resetPeriod = none → P s → P (s.popRequest p)
  respond : ∀ (s : State) p k t st rs, s.resetPeriod = none → P s → (s.ports.at p).responses.length < 4 → P (s.respond p k t st rs)
  line : ∀ (s : State) l, s.resetPeriod = none → P s → P (s.takeLine l)
  notice : ∀ (s : State) p, s.resetPeriod = none → P s → P (s.buildNotice p)
  retransmit : ∀ (s : State) p, s.resetPeriod = none → P s → P (s.expireRetransmit p)
  silence : ∀ (s : State) p, s.resetPeriod = none → P s → P (s.expireSilence p)
  retain : ∀ (s : State) p, s.resetPeriod = none → P s → P (s.expireRetain p)
  grace : ∀ (s : State) o, s.resetPeriod = none → P s → P (s.expireGrace o)
  verify : ∀ (s : State) o, s.resetPeriod = none → P s → P (s.verifyOutput o)
  receive : ∀ (s : State) p c x, s.resetPeriod = none → P s → P (s.receive p c x)
  gap : ∀ (s : State) p, s.resetPeriod = none → P s → P (s.expireGap p)
  send : ∀ (s : State) p, s.resetPeriod = none → P s → P (s.sendResponse p)
  ends : ∀ (s : State) p, s.resetPeriod = none → P s → P (s.endFrame p)
  idle : ∀ (s : State) p, s.resetPeriod = none → P s → P (s.lineIdle p)
  choice : ∀ (s : State) n, s.resetPeriod = none → P s → P { s with choice := n }
  tick : ∀ (s : State) raw, s.resetPeriod = none → P s → P (s.tick raw)
  asserted : ∀ (s : State) c, P (s.assertReset c)
  sources : ∀ (s : State) a b c, P s → P { s with rstnLow := a, dipLow := b, powerLow := c }
  released : ∀ (s : State) x, P s → P (s.endReset x)
  queue : ∀ (s : State) q, P s → P { s with pending := q }

theorem Closed.take {P : State → Prop} (C : Closed P) (hrep : ∀ (k : ReqKind) (p : Port) (payload : List Byte)
    (s : State), (s.ports.at p).responses.length < 4 →
      (((ReqKind.rule k) p payload s).state.ports.at p).responses.length < 4) (k p) (s : State) (h : P s) : P
        (takeRequest k (ReqKind.rule k) p s) := by
  rcases takeRequest_cases k (ReqKind.rule k) p s with e | ⟨f, st, ht, e⟩ | ⟨f, ht, hl, ho, e⟩
  · rw [e]; exact h
  · rw [e, ← respond_popRequest]
    exact C.respond _ _ _ _ _ _ (by exact ht.1) (C.pop _ _ ht.1 h) (by simpa [State.popRequest] using ht.2.2.1)
  · rw [e]
    refine C.respond _ _ _ _ _ _ ((rule_running _ _ _ _).trans ht.1) (C.own k p _ _ (by exact ht.1)
      (C.pop _ _ ht.1 h) (by simpa using ho) hl) ?_
    exact hrep k p _ _ (by simpa [State.popRequest] using ht.2.2.1)

theorem Closed.takeDue {P : State → Prop} (C : Closed P) (s : State) (d : Due) (hr : s.resetPeriod = none)
    (h : P s) : P (s.takeDue d) := by
  cases d
  · exact C.line _ _ hr h
  · exact C.verify _ _ hr h
  · exact C.grace _ _ hr h
  · exact C.retransmit _ _ hr h
  · exact C.silence _ _ hr h
  · exact C.retain _ _ hr h
  · exact C.gap _ _ hr h

theorem Closed.takeAllDue {P : State → Prop} (C : Closed P) (s : State) (hr : s.resetPeriod = none)
    (h : P s) : P s.takeAllDue ∧ s.takeAllDue.resetPeriod = none := by
  unfold State.takeAllDue
  generalize arrange s.choice s.due = ds
  have h' : P { s with choice := s.choice + 1 } := C.choice _ _ hr h
  have hr' : ({ s with choice := s.choice + 1 } : State).resetPeriod = none := hr
  generalize ({ s with choice := s.choice + 1 } : State) = u at h' hr'
  induction ds generalizing u with
  | nil => exact ⟨h', hr'⟩
  | cons d ds ih => exact ih _ (C.takeDue _ _ hr' h') (by rw [takeDue_running, hr'])

/-- Every command keeps a closed property. -/
theorem Closed.exec {P : State → Prop} (C : Closed P) (c : Instr) (s t : State) (h : P s) (he : exec c s
    = .next t) : P t := by
  rcases cmd_cases c with ⟨k, p, rfl⟩ | ⟨p, rfl⟩ | ⟨l, hc⟩ | ⟨l, rfl⟩ | ⟨p, hc⟩ | ⟨o, hc⟩ | ⟨p, b, x, rfl⟩ | ⟨p, x, rfl⟩ | ⟨x, hc⟩ | rfl | rfl | rfl | ⟨raw, rfl⟩
  · rw [exec_take k p s] at he; injection he with he; subst he
    exact C.take (fun k p payload s hs => by rw [(rule_responses k p payload s).1]; exact hs) _ _ _ h
  · injection he with he; subst he
    unfold State.takeReject
    split
    · exact h
    · rename_i f hf
      have ht := nextRequest_eq_some.mp hf
      split
      · exact h
      · exact C.respond _ _ _ _ _ _ (by exact ht.1) (C.pop _ _ ht.1 h) (by simpa [State.popRequest] using ht.2.2.1)
  · rcases hc with rfl | rfl | rfl | rfl
    all_goals
      simp only [Machine.exec, execRawEdge, execSettleExpiry, execDebounceExpiry, execQuietExpiry] at he
      rcases whenRunning_next he with rfl | ⟨hr, rfl⟩
      · exact h
      · split
        · exact C.line _ _ hr h
        · exact h
  · simp only [Machine.exec, execChatterWindowExpiry] at he
    rcases whenRunning_next he with rfl | ⟨hr, rfl⟩
    · exact h
    · split
      · exact C.line _ _ hr h
      · exact h
  · rcases hc with rfl | rfl | rfl | rfl | rfl | rfl | rfl | rfl
    all_goals
      simp only [Machine.exec, execNoticeBuild, execRetransmitExpiry, execSilenceExpiry, execRetainExpiry,
        execGapExpiry,
        execResponseSend, execFrameEnd, execLineReturnsToIdle] at he
      rcases whenRunning_next he with rfl | ⟨hr, rfl⟩
      · exact h
      · first
        | exact C.notice _ _ hr h
        | exact C.retransmit _ _ hr h
        | exact C.silence _ _ hr h
        | exact C.retain _ _ hr h
        | exact C.gap _ _ hr h
        | exact C.send _ _ hr h
        | exact C.ends _ _ hr h
        | exact C.idle _ _ hr h
  · rcases hc with rfl | rfl
    all_goals
      simp only [Machine.exec, execGraceExpiry, execVerifyExpiry] at he
      rcases whenRunning_next he with rfl | ⟨hr, rfl⟩
      · exact h
      · first
        | exact C.grace _ _ hr h
        | exact C.verify _ _ hr h
  · simp only [Machine.exec, execCharacterReceived] at he
    rcases whenRunning_next he with rfl | ⟨hr, rfl⟩
    · exact h
    · exact C.receive _ _ _ _ hr h
  · simp only [Machine.exec, execRestartReset] at he
    rcases whenRunning_next he with rfl | ⟨hr, rfl⟩
    · exact h
    · split
      · cases x
        · exact C.released _ _ (C.asserted _ _)
        · exact C.asserted _ _
        · exact C.asserted _ _
      · exact h
  · rcases hc with rfl | rfl | rfl <;> injection he with he <;> subst he
    · exact C.released _ _ (C.asserted _ _)
    · exact C.released _ _ (C.sources s _ _ _ h)
    · exact C.released _ _ (C.sources s _ _ _ h)
  · injection he with he; subst he; exact C.asserted _ _
  · injection he with he; subst he; exact C.asserted _ _
  · injection he with he; subst he; exact C.asserted _ _
  · simp only [Machine.exec, execSample] at he
    rcases whenRunning_next he with rfl | ⟨hr, rfl⟩
    · exact h
    · obtain ⟨h1, h2⟩ := C.takeAllDue s hr h
      exact C.tick _ _ h2 h1

/-- Every step keeps a closed property. -/
theorem Closed.step {P : State → Prop} (C : Closed P) (s t : State) (h : P s) (he : Sys2Proof.Machine.step s
    = .next t) : P t := by
  unfold Sys2Proof.Machine.step at he
  split at he
  · injection he with he; subst he; exact h
  · exact C.exec _ _ _ (C.queue _ _ h) he

end Sys2Proof.Machine
end

