-- ==== Sys2Proof/Laws/Hearing.lean ====
section
/-! SUPPORT. What sets and outputs can do when they hear of a line, said once: a property that these parts keep is
kept by every telling. -/

namespace Sys2Proof.Machine

open Sys2Proof

/-- The session is OPEN or LAPSED. -/
def State.live (s : State) (p : Port) : Prop := (s.sessions.at p).state ≠ .closed

/-- The property is kept by what sets and outputs do with news. -/
structure HearClosed (P : State → Prop) : Prop where
  append : ∀ (s : State) p r, s.canAdmit p = true → P s → P (s.append p r)
  overrun : ∀ (s : State) w ws, s.sets.at w = some ws → P s → P (s.overrunSet w ws)
  loss : ∀ (s : State) p, P s → P (s.noteLoss p)
  absorb : ∀ (s : State) p us, us.length = (s.journals.at p).unsent.length → P s → P (s.putJournal p { s.journals.at p with unsent := us })
  attend : ∀ (s : State) w ws, s.sets.at w = some ws → P s → P ((s.putSet w (some { ws with attention := true })).raiseStatus ws.owner)
  output : ∀ (s : State) o v f, P s → P (s.putOutput o { s.outputs.at o with verify := v, fault := f })
  line : ∀ (s : State) l r, P s → P (s.putLine l r)
  choice : ∀ (s : State) n, P s → P { s with choice := n }

theorem HearClosed.admitForSet (H : HearClosed P) (s : State) (w ws r) (hs : s.sets.at w = some ws) (h : P s) : P
    (s.admitForSet w ws r) := by
  unfold State.admitForSet State.tryAdmit
  split
  · rename_i hc; exact H.append _ _ _ hc h
  · exact H.overrun _ _ _ hs h

theorem HearClosed.admitOrLose (H : HearClosed P) (s : State) (p r) (h : P s) : P (s.admitOrLose p r) := by
  unfold State.admitOrLose State.tryAdmit
  split
  · rename_i hc; exact H.append _ _ _ hc h
  · exact H.loss _ _ h

theorem HearClosed.hearSet (H : HearClosed P) (s : State) (w l e) (h : P s) : P (s.hearSet w l e) := by
  unfold State.hearSet
  split
  · exact h
  · rename_i ws hs
    split
    · split
      · exact H.admitForSet _ _ _ _ hs h
      · unfold State.hearLatest
        split
        · split
          · rename_i hab; exact H.absorb _ _ _ (absorb_length hab) h
          · exact H.admitForSet _ _ _ _ hs h
        · exact H.admitForSet _ _ _ _ hs h
        · exact H.admitForSet _ _ _ _ hs h
      · unfold State.hearSummary
        dsimp only
        split
        · exact H.attend _ _ _ hs h
        · exact h
    · exact h

theorem HearClosed.putO (H : HearClosed P) (s : State) (o) (r : Output) (hr :
    { s.outputs.at o with verify := r.verify, fault := r.fault } = r) (h : P s) : P (s.putOutput o r) := by
  rw [← hr]; exact H.output _ _ _ _ h

theorem HearClosed.judge (H : HearClosed P) (s : State) (o d) (h : P s) : P (s.judgeOutput o d) := by
  unfold State.judgeOutput
  split
  · exact H.putO _ _ _ rfl h
  · unfold State.faultOutput
    dsimp only
    split
    · exact H.putO _ _ _ rfl h
    · split
      · exact H.putO _ _ _ rfl h
      · exact H.admitOrLose _ _ _ (H.putO _ _ _ rfl h)

theorem HearClosed.hearOutput (H : HearClosed P) (s : State) (o n) (h : P s) : P (s.hearOutput o n) := by
  unfold State.hearOutput State.hearWaiting State.hearDeferred State.hearOk State.hearUnverified
  have hu : P (s.unverifyOutput o) := H.putO _ _ _ rfl h
  split <;> (try split) <;> first | exact h | exact H.judge _ _ _ h | exact hu

theorem HearClosed.hear (H : HearClosed P) (s : State) (l n x) (h : P s) : P (State.hear l n s x) := by
  unfold State.hear
  split
  · split <;> first | exact h | exact H.hearSet _ _ _ _ h
  · exact H.hearOutput _ _ _ h

theorem HearClosed.tell (H : HearClosed P) (s : State) (l n) (h : P s) : P (s.tell l n) := by
  unfold State.tell
  exact foldl_arrange_keeps P _ _ _ _ (H.choice _ _ h) (fun x _ t ht => H.hear _ _ _ _ ht)

theorem HearClosed.takeLine (H : HearClosed P) (s : State) (l) (h : P s) : P (s.takeLine l) := by
  unfold State.takeLine
  dsimp only
  split
  · exact h
  · split
    · exact H.line _ _ _ h
    · exact H.tell _ _ _ (H.line _ _ _ h)

theorem HearClosed.verify (H : HearClosed P) (s : State) (o) (h : P s) : P (s.verifyOutput o) := by
  unfold State.verifyOutput
  split
  · split
    · exact H.judge _ _ _ h
    all_goals exact H.putO _ _ _ rfl h
  · exact h

theorem HearClosed.reconf (H : HearClosed P) (s : State) (n) (h : P s) : P (s.reconfigureOutputs n) := by
  unfold State.reconfigureOutputs
  generalize List.finRange 16 = os
  induction os generalizing s with
  | nil => exact h
  | cons o os ih =>
    refine ih _ ?_
    dsimp only; split
    · exact H.hearOutput _ _ _ h
    · exact h

theorem HearClosed.setTime (H : HearClosed P) (hl : ∀ (s : State) t n f, P s → P
    (({ s with time := t, choice := n } : State).updateLines f)) (s : State) (new) (h : P s) : P (s.setTime new) := by
  unfold State.setTime
  refine foldl_arrange_keeps P _ _ _ _ (hl _ _ _ _ h) (fun x _ t ht => ?_)
  unfold State.markTime
  split
  · exact ht
  · exact H.admitOrLose _ _ _ ht
  · exact H.admitOrLose _ _ _ ht

/-- The same with what ownership gives: a hearer admits into the journal of a session that is not CLOSED (R24, R57). -/
structure HearOwned (P : State → Prop) : Prop where
  owned : ∀ s, P s → s.owned
  append : ∀ (s : State) p r, s.canAdmit p = true → State.live s p → s.recordSound p r → r.body.isVoid = false → r.body.levels? = none → P s → P (s.append p r)
  overrun : ∀ (s : State) w ws, s.sets.at w = some ws → ws.phase = .armed → P s → P (s.overrunSet w ws)
  loss : ∀ (s : State) p, State.live s p → P s → P (s.noteLoss p)
  absorb : ∀ (s : State) w ws l level stamp us, s.sets.at w = some ws → ws.phase = .armed → ws.mode = .latest → l ∈ ws.members →
     absorbChange w l level stamp (s.journals.at ws.owner).unsent = some us → P s → P (s.putJournal ws.owner
       { s.journals.at ws.owner with unsent := us })
  attend : ∀ (s : State) w ws, s.sets.at w = some ws → ws.phase = .armed → ws.mode = .summary → P s → P ((s.putSet w (some { ws with attention := true })).raiseStatus ws.owner)
  output : ∀ (s : State) o v f, P s → P (s.putOutput o { s.outputs.at o with verify := v, fault := f })
  choice : ∀ (s : State) n, P s → P { s with choice := n }

theorem HearOwned.liveSet (H : HearOwned P) {s : State} {w ws} (hs : s.sets.at w = some ws)
    (h : P s) : State.live s ws.owner := (H.owned s h).1 w ws hs

theorem HearOwned.liveOut (H : HearOwned P) {s : State} {o p} (ho : (s.outputs.at o).state.owner = some p)
    (h : P s) : State.live s p := by
  have := (H.owned s h).2.1 o
  unfold State.live
  rcases hst : (s.outputs.at o).state with _ | q | ⟨q, e⟩ | q <;> simp only [hst, OutState.owner] at ho this
  · simp at ho
  · injection ho with ho; subst ho
    intro hc; simp [State.isOpen, hc, SessState.isOpen] at this
  · injection ho with ho; subst ho
    intro hc; simp [State.isLapsed, hc, SessState.isLapsed] at this
  · injection ho with ho; subst ho
    exact this

/-- A record of no set fits any journal. -/
theorem sound_unbound {s : State} {p} {r : Rec} (h : r.body.set? = none) : s.recordSound p r := by
  intro w hw; rw [h] at hw; simp at hw

theorem HearOwned.admitOrLose (H : HearOwned P) (s : State) (p r) (hl : State.live s p) (h1 : r.body.set? = none)
    (h2 : r.body.isVoid = false) (h3 : r.body.levels? = none) (h : P s) : P (s.admitOrLose p r) := by
  unfold State.admitOrLose State.tryAdmit
  split
  · rename_i hc; exact H.append _ _ _ hc hl (sound_unbound h1) h2 h3 h
  · exact H.loss _ _ hl h

/-- What the record of an event tells. -/
theorem event_set (w l) (e : LineEvent) : (e.record w l).body.set? = some w ∧ (e.record w l).body.line? = some l ∧
    (e.record w l).body.isVoid = false ∧ (e.record w l).body.levels? = none := by
  cases e <;> exact ⟨rfl, rfl, rfl, rfl⟩

/-- The record of an event fits the set that asks for it (R51). -/
theorem event_sound {s : State} {w ws l} (e : LineEvent) (hs : s.sets.at w = some ws) (hp : ws.phase = .armed)
    (hm : ws.mode ≠ .summary) (hl : l ∈ ws.members) : s.recordSound ws.owner (e.record w l) := by
  obtain ⟨h1, h2, h3, h4⟩ := event_set w l e
  intro v hv _
  rw [h1] at hv; injection hv with hv; subst hv
  refine ⟨ws, hs, rfl, by simp [WatchSet.inUse, hp], hm, fun m hm => ?_, fun n hn => ?_⟩
  · rw [h2] at hm; injection hm with hm; subst hm; exact hl
  · rw [h4] at hn; simp at hn

theorem HearOwned.admitForSet (H : HearOwned P) (s : State) (w ws l) (e : LineEvent) (hs : s.sets.at w = some ws)
    (hp : ws.phase = .armed) (hm : ws.mode ≠ .summary) (hl : l ∈ ws.members) (h : P s) : P (s.admitForSet w ws
      (e.record w l)) := by
  obtain ⟨h1, h2, h3, h4⟩ := event_set w l e
  unfold State.admitForSet State.tryAdmit
  split
  · rename_i hc; exact H.append _ _ _ hc (H.liveSet hs h) (event_sound e hs hp hm hl) h3 h4 h
  · exact H.overrun _ _ _ hs hp h

theorem HearOwned.hearSet (H : HearOwned P) (s : State) (w l e) (h : P s) : P (s.hearSet w l e) := by
  unfold State.hearSet
  split
  · exact h
  · rename_i ws hs
    split
    · rename_i hf
      obtain ⟨hp, hl⟩ := (follows_iff ws l).mp hf
      split
      · rename_i hm; exact H.admitForSet _ _ _ _ _ hs hp (by simp [hm]) hl h
      · rename_i hm
        unfold State.hearLatest
        split
        · split
          · rename_i hab; exact H.absorb _ _ _ _ _ _ _ hs hp hm hl hab h
          · exact H.admitForSet _ _ _ _ _ hs hp (by simp [hm]) hl h
        · exact H.admitForSet _ _ _ _ _ hs hp (by simp [hm]) hl h
        · exact H.admitForSet _ _ _ _ _ hs hp (by simp [hm]) hl h
      · rename_i hm
        unfold State.hearSummary
        dsimp only
        split
        · exact H.attend _ _ _ hs hp hm h
        · exact h
    · exact h

theorem HearOwned.putO (H : HearOwned P) (s : State) (o) (r : Output) (hr :
    { s.outputs.at o with verify := r.verify, fault := r.fault } = r) (h : P s) : P (s.putOutput o r) := by
  rw [← hr]; exact H.output _ _ _ _ h

theorem HearOwned.judge (H : HearOwned P) (s : State) (o d) (h : P s) : P (s.judgeOutput o d) := by
  unfold State.judgeOutput
  split
  · exact H.putO _ _ _ rfl h
  · unfold State.faultOutput
    dsimp only
    split
    · exact H.putO _ _ _ rfl h
    · split
      · exact H.putO _ _ _ rfl h
      · rename_i p hp
        exact H.admitOrLose _ _ _ (show State.live s p from H.liveOut (s := s) hp h) rfl rfl rfl (H.putO _ _ _ rfl h)

theorem HearOwned.hearOutput (H : HearOwned P) (s : State) (o n) (h : P s) : P (s.hearOutput o n) := by
  unfold State.hearOutput State.hearWaiting State.hearDeferred State.hearOk State.hearUnverified
  have hu : P (s.unverifyOutput o) := H.putO _ _ _ rfl h
  split <;> (try split) <;> first | exact h | exact H.judge _ _ _ h | exact hu

theorem HearOwned.hear (H : HearOwned P) (s : State) (l n x) (h : P s) : P (State.hear l n s x) := by
  unfold State.hear
  split
  · split <;> first | exact h | exact H.hearSet _ _ _ _ h
  · exact H.hearOutput _ _ _ h

theorem HearOwned.tell (H : HearOwned P) (s : State) (l n) (h : P s) : P (s.tell l n) := by
  unfold State.tell
  exact foldl_arrange_keeps P _ _ _ _ (H.choice _ _ h) (fun x _ t ht => H.hear _ _ _ _ ht)

theorem HearOwned.takeLine (H : HearOwned P) (hline : ∀ (s : State) l x, P s → P (s.putLine l
    ((s.lines.at l).take s.now s.time x).1)) (s : State) (l) (h : P s) : P (s.takeLine l) := by
  unfold State.takeLine
  dsimp only
  split
  · exact h
  · split
    · exact hline _ _ _ h
    · exact H.tell _ _ _ (hline _ _ _ h)

theorem HearOwned.verify (H : HearOwned P) (s : State) (o) (h : P s) : P (s.verifyOutput o) := by
  unfold State.verifyOutput
  split
  · split
    · exact H.judge _ _ _ h
    all_goals exact H.putO _ _ _ rfl h
  · exact h

theorem HearOwned.reconf {P : State → Prop} (H : HearOwned P) (s : State) (n) (h : P s) : P (s.reconfigureOutputs n)
    := by
  unfold State.reconfigureOutputs
  generalize List.finRange 16 = os
  induction os generalizing s with
  | nil => exact h
  | cons o os ih =>
    refine ih _ ?_
    dsimp only; split
    · exact H.hearOutput _ _ _ h
    · exact h

theorem HearOwned.setTime (H : HearOwned P) (hl : ∀ (s : State) new, P s → P
    (({ s with time := new, choice := s.choice + 1 } : State).updateLines fun _ r => r.shiftStamp (new - s.time)))
      (s : State) (new) (h : P s) : P (s.setTime new) := by
  unfold State.setTime
  refine foldl_arrange_keeps P _ _ _ _ (hl _ _ h) (fun x _ t ht => ?_)
  unfold State.markTime
  split
  · exact ht
  · rename_i hst; exact H.admitOrLose _ _ _ (by simp [State.live, hst]) rfl rfl rfl ht
  · rename_i hst; exact H.admitOrLose _ _ _ (by simp [State.live, hst]) rfl rfl rfl ht

end Sys2Proof.Machine
end

