-- ==== Sys2Proof/Laws/Samples.lean ====
section
/-! SUPPORT. The finishing of a sample: what lines do with it does not hang on the ports, every waiting line takes it once, and
then none waits; and what is due at a port (spec/01, spec/09). -/

namespace Sys2Proof.Machine

open Sys2Proof

/-- The state with other ports. -/
def State.withPorts (s : State) (ps : PerPort LinkPort) : State := { s with ports := ps }

theorem tryAdmit_ports (s : State) (ps p r) : (s.withPorts ps).tryAdmit p r = (s.tryAdmit p r).map (·.withPorts ps) := by
  have hc : (s.withPorts ps).canAdmit p = s.canAdmit p := rfl
  unfold State.tryAdmit
  rw [hc]
  split <;> rfl

theorem noteLoss_ports (s : State) (ps p) : (s.withPorts ps).noteLoss p = (s.noteLoss p).withPorts ps := by
  unfold State.noteLoss
  rw [show (s.withPorts ps).sessions = s.sessions from rfl]
  split <;> rfl

theorem admitOrLose_ports (s : State) (ps p r) : (s.withPorts ps).admitOrLose p r = (s.admitOrLose p r).withPorts ps := by
  unfold State.admitOrLose
  rw [tryAdmit_ports, noteLoss_ports]
  rcases s.tryAdmit p r with _ | t <;> rfl

theorem admitForSet_ports (s : State) (ps w ws r) : (s.withPorts ps).admitForSet w ws r = (s.admitForSet w ws r).withPorts ps := by
  unfold State.admitForSet
  rw [tryAdmit_ports]
  rcases s.tryAdmit ws.owner r with _ | t <;> rfl

theorem hearSet_ports (s : State) (ps w l e) : (s.withPorts ps).hearSet w l e = (s.hearSet w l e).withPorts ps := by
  unfold State.hearSet
  rw [show (s.withPorts ps).sets = s.sets from rfl]
  rcases s.sets.at w with _ | ws
  · rfl
  · simp only
    by_cases hf : ws.follows l = true
    · simp only [hf, if_true]
      rcases ws.mode with _ | _ | _
      · exact admitForSet_ports ..
      · simp only [State.hearLatest]
        rw [show (s.withPorts ps).journals = s.journals from rfl]
        rcases e with ⟨v, st⟩ | _ | _ <;> simp only
        · rcases absorbChange w l v st (s.journals.at ws.owner).unsent with _ | us
          · exact admitForSet_ports ..
          · rfl
        · exact admitForSet_ports ..
        · exact admitForSet_ports ..
      · simp only [State.hearSummary]
        rw [show (s.withPorts ps).level = s.level from rfl]
        split <;> rfl
    · simp only [hf]; rfl

theorem faultOutput_ports (s : State) (ps o d) : (s.withPorts ps).faultOutput o d = (s.faultOutput o d).withPorts ps := by
  unfold State.faultOutput
  dsimp only
  rw [show (s.withPorts ps).outputs = s.outputs from rfl]
  split
  · rfl
  · rcases (s.outputs.at o).state.owner with _ | p
    · rfl
    · exact admitOrLose_ports (s.putOutput o _) ..

theorem judgeOutput_ports (s : State) (ps o d) : (s.withPorts ps).judgeOutput o d = (s.judgeOutput o d).withPorts ps := by
  unfold State.judgeOutput
  rw [show (s.withPorts ps).outputs = s.outputs from rfl]
  split
  · rfl
  · exact faultOutput_ports ..

theorem hearOutput_ports (s : State) (ps o n) : (s.withPorts ps).hearOutput o n = (s.hearOutput o n).withPorts ps := by
  unfold State.hearOutput
  rw [show (s.withPorts ps).outputs = s.outputs from rfl]
  unfold State.hearWaiting State.hearDeferred State.hearOk State.hearUnverified
  split <;> (try split) <;> first | rfl | exact judgeOutput_ports ..

theorem hear_ports (s : State) (ps l n h) : State.hear l n (s.withPorts ps) h = (State.hear l n s h).withPorts ps := by
  unfold State.hear
  split
  · split <;> first | rfl | exact hearSet_ports ..
  · exact hearOutput_ports ..

theorem foldl_ports {α : Type} (f : State → α → State) (ps) (hf : ∀ (s : State) x, f (s.withPorts ps) x = (f s x).withPorts ps)
    (xs : List α) (s : State) : xs.foldl f (s.withPorts ps) = (xs.foldl f s).withPorts ps := by
  induction xs generalizing s with
  | nil => rfl
  | cons x xs ih => rw [List.foldl, List.foldl, hf, ih]

theorem tell_ports (s : State) (ps l n) : (s.withPorts ps).tell l n = (s.tell l n).withPorts ps :=
  foldl_ports (State.hear l n) ps (fun t h => hear_ports t ps l n h) (arrange s.choice (s.hearers l n)) { s with choice := s.choice + 1 }

/-- What a line does with its sample does not hang on the ports. -/
theorem takeLine_ports (s : State) (ps l) : (s.withPorts ps).takeLine l = (s.takeLine l).withPorts ps := by
  unfold State.takeLine
  dsimp only
  rw [show (s.withPorts ps).lines = s.lines from rfl, show (s.withPorts ps).now = s.now from rfl, show (s.withPorts ps).time = s.time from rfl]
  split
  · rfl
  · split
    · rfl
    · exact tell_ports (s.putLine l _) ..

/-- The finishing of a sample does not hang on the ports. -/
theorem finishSample_ports (s : State) (ps) : (s.withPorts ps).finishSample = s.finishSample.withPorts ps := by
  unfold State.finishSample
  rw [show (s.withPorts ps).waitingLines = s.waitingLines from rfl]
  rcases s.waitingLines with _ | ⟨l, ls⟩
  · rfl
  · exact foldl_ports State.takeLine ps (fun t m => takeLine_ports t ps m) (arrange s.choice (l :: ls))
      { s with choice := s.choice + 1 }

/-- The finishing of a sample: nothing, or every waiting line in some order (R15; logs 4 and 15). -/
theorem finishSample_order (s : State) :
    ((∀ l, (s.lines.at l).waiting = none) → s.finishSample = s) ∧
    ((∃ l, (s.lines.at l).waiting ≠ none) → ∃ order : List LineId, order.Nodup ∧
      (∀ l, l ∈ order ↔ (s.lines.at l).waiting ≠ none) ∧
      s.finishSample = order.foldl State.takeLine { s with choice := s.choice + 1 }) := by
  have hmem : ∀ l, l ∈ s.waitingLines ↔ (s.lines.at l).waiting ≠ none := by
    intro l; simp [State.waitingLines, Option.isSome_iff_ne_none]
  constructor
  · intro h
    have : s.waitingLines = [] := by
      rw [List.eq_nil_iff_forall_not_mem]; intro l hl; exact (hmem l).mp hl (h l)
    simp only [State.finishSample, this]
  · rintro ⟨l, hl⟩
    have hnd : s.waitingLines.Nodup := (List.nodup_finRange 64).filter _
    refine ⟨arrange s.choice s.waitingLines, (arrange_perm _ _).nodup_iff.mpr hnd, fun m => (mem_arrange _ _ m).trans (hmem m), ?_⟩
    unfold State.finishSample
    rcases hw : s.waitingLines with _ | ⟨m, ms⟩
    · exact absurd ((hmem l).mpr hl) (by simp [hw])
    · rfl

/-- A line that takes its sample waits no longer; the other lines stay as they were. -/
theorem takeLine_lines (s : State) (l m : LineId) : (m ≠ l → (s.takeLine l).lines.at m = s.lines.at m) ∧
    ((s.takeLine l).lines.at l).waiting = none := by
  unfold State.takeLine
  dsimp only
  rcases hw : (s.lines.at l).waiting with _ | x
  · exact ⟨fun _ => rfl, hw⟩
  · have ht : ((s.lines.at l).take s.now s.time x).1.waiting = none := rfl
    rcases hn : ((s.lines.at l).take s.now s.time x).2 with _ | n <;> simp only [hn]
    · exact ⟨fun h => by simp [h], by simp [ht]⟩
    · rw [tell_lines]
      exact ⟨fun h => by simp [h], by simp [ht]⟩

/-- Once every waiting line has taken its sample, none waits. -/
theorem foldl_takeLine_waiting (order : List LineId) (s : State) (m : LineId)
    (h : (s.lines.at m).waiting = none ∨ m ∈ order) : ((order.foldl State.takeLine s).lines.at m).waiting = none := by
  induction order generalizing s with
  | nil => simpa using h
  | cons l ls ih =>
    apply ih
    by_cases hm : m = l
    · subst hm; exact Or.inl (takeLine_lines s m m).2
    · rw [(takeLine_lines s l m).1 hm]
      rcases h with h | h
      · exact Or.inl h
      · rcases List.mem_cons.mp h with h | h
        · exact absurd h hm
        · exact Or.inr h

/-- A timer has expired when it holds a sample that has come. -/
theorem expired_iff (n) (t : Option Nat) : expired n t = true ↔ ∃ e, t = some e ∧ e ≤ n := by
  rcases t with _ | e <;> simp [expired]

/-- The events of a port that are due (R83, R103, R106, R162). -/
theorem mem_dueAt (s : State) (q : Port) (d : Due) : d ∈ s.dueAt q ↔ (d = .retransmit q ∧ expired s.now (s.engines.at q).retransmit = true) ∨
   (d = .silence q ∧ (s.sessions.at q).state.silenceDue s.now = true) ∨ (d = .retain q ∧ (s.sessions.at q).state.retainDue s.now = true) ∨
   (d = .gap q ∧ (s.ports.at q).receiver.gapDue s.now = true) := by
  unfold State.dueAt
  simp only [List.mem_append]
  have h : ∀ (b : Bool) (x : Due), d ∈ (if b = true then [x] else []) ↔ d = x ∧ b = true := by
    intro b x; cases b <;> simp
  rw [h, h, h, h, or_assoc, or_assoc]

end Sys2Proof.Machine
end

