-- ==== Sys2Proof/WellFormed.lean ====
section
/-! DEFINITION. Which command terms describe an event that can happen. The numbers of ports, lines, outputs and the 64 raw
levels are bounded by their types; what is left is the content of a break. -/

namespace Sys2Proof

/-- During a break the line is at the start level through all eight data bits, so the character it gives has every data bit
at 0 (R158, with the start level of R157's format; DEDUCED, log 13). -/
def Instr.wellFormed : Instr → Bool
  | .characterReceived _ c .brk => c = 0
  | .characterReceived _ _ .good | .characterReceived _ _ .error
  | .hello _ | .openSession _ | .close _ | .ping _ | .setTime _ | .configLine _ | .readLineConfig _ | .readLines _
  | .readCounters _ | .defineSet _ | .armSet _ | .disarmSet _ | .deleteSet _ | .readSet _ | .ackSet _ | .resyncSet _
  | .adoptSet _ | .ack _ | .journalStatus _ | .claimOutput _ | .releaseOutput _ | .writeOutputs _ | .configOutput _
  | .readOutputs _ | .restart _ | .reject _ | .rawEdge _ | .settleExpiry _ | .debounceExpiry _ | .chatterWindowExpiry _
  | .quietExpiry _ | .noticeBuild _ | .retransmitExpiry _ | .silenceExpiry _ | .retainExpiry _ | .graceExpiry _
  | .verifyExpiry _ | .gapExpiry _ | .responseSend _ | .frameEnd _ | .restartReset _ _ | .powerOn _ | .rstnLow
  | .rstnHigh _ | .supplyDip | .supplyDipEnd _ | .sample _ | .lineReturnsToIdle _ | .supplyBelowPowerOn => true

end Sys2Proof
end

