-- ==== Sys2Proof/Tests/Slice0.lean ====
section
/-! SUPPORT. Tests: ill-formed commands, worked values of the spec, and, for every statement with hypotheses, a state and
operands that meet each of its clauses. -/

namespace Sys2Proof.Tests

set_option Elab.async false

open Sys2Proof Sys2Proof.Machine

/-! ### Commands -/

theorem test_break_with_data_bits_is_ill_formed : (Instr.characterReceived .A 1 .brk).wellFormed = false := by decide

theorem test_break_without_data_bits_is_well_formed : (Instr.characterReceived .A 0 .brk).wellFormed = true := by decide

theorem test_good_character_is_well_formed : (Instr.characterReceived .B 255 .good).wellFormed = true := by decide

theorem test_no_word_spells_a_command : decodeTableWord 0 0 = none := by decide

/-! ### Small states -/

def frame (k : Byte) (payload : List Byte) : Frame := { kind := k, tag := 7, payload := payload }

/-- The state with one request waiting on port p. -/
def asks (p : Port) (k : ReqKind) (payload : List Byte) (s : State) : State :=
  s.putPort p { s.ports.at p with requests := [frame k.code payload] }

/-- With this request waiting on port p, the part can serve it. -/
def served (p : Port) (k : ReqKind) (payload : List Byte) (s : State) : Bool :=
  decide ((asks p k payload s).serves p k payload (frame k.code payload))

/-- The smallest and the largest parameters of R96. -/
def least : Params := { tag := 1, keepalive := 100, retain := 0, window := 1, retryTimeout := 20, retryLimit := 1 }

def most : Params :=
  { tag := 65535, keepalive := 60000, retain := 600, window := 32, retryTimeout := 5000, retryLimit := 15 }

/-- Every line STABLE at 0. -/
def quiet : State :=
  { State.reset with
    time := 5000, now := 20000
    lines := Tab.replicate 64 { LineRec.reset with state := .stable false, lastRaw := some false } }

/-- Session A OPEN, session B CLOSED. -/
def live : State :=
  quiet.putSession .A { Session.reset with state := .opened least 21200 }

/-- Both sessions OPEN. -/
def both : State := live.putSession .B { Session.reset with state := .opened most 99999 }

/-- Session A OPEN, session B LAPSED. -/
def failed : State := live.putSession .B { Session.reset with state := .lapsed most .silence 99999 }

/-- A set of lines L0 and L1. -/
def pair (p : Port) (mode : SetMode) (phase : SetPhase) : WatchSet :=
  { owner := p, mode := mode, members := [0, 1], snapshot := some [false, false], phase := phase, attention := false }

def withSet (p : Port) (mode : SetMode) (phase : SetPhase) (s : State) : State := s.putSet 15 (some (pair p mode phase))

/-- Line l in this state with sample x waiting, its last raw sample given. -/
def waiting (l : LineId) (state : LineState) (last x : Bool) (s : State) : State :=
  s.putLine l { LineRec.reset with state := state, lastRaw := some last, waiting := some x }

theorem not_watched {s : State} {l : LineId} (h : s.lineInUse l = false) : ¬ s.watches l := by
  rw [← lineInUse_iff, h]; decide

theorem watched {s : State} {l : LineId} (h : s.lineInUse l = true) : s.watches l := (lineInUse_iff s l).mp h

theorem not_followed {s : State} {l : LineId} (h : ∀ w, s.setFollows w l = false) : s.unfollowed l := by
  intro w ws h1 h2 h3
  have := (setFollows_iff s w l).mpr ⟨ws, h1, h2, h3⟩
  rw [h w] at this; exact Bool.noConfusion this

theorem followed {s : State} {l : LineId} {w : SetId} {ws : WatchSet} (h1 : s.sets.at w = some ws) (h2 : ws.phase = .armed)
    (h3 : l ∈ ws.members) (h : ∀ v, v ≠ w → s.setFollows v l = false) : s.followedBy l w ws := by
  refine ⟨h1, h2, h3, fun v vs g1 g2 g3 => ?_⟩
  by_contra hv
  have := (setFollows_iff s v l).mpr ⟨vs, g1, g2, g3⟩
  rw [h v hv] at this; exact Bool.noConfusion this

/-- The state that a command answers from s, if it answers a next state. -/
def after (c : Instr) (s : State) : Option State :=
  match exec c s with
  | .next t => some t
  | .fault _ => none
  | .refused _ => none

/-! ### Witnesses: reset and requests -/

theorem witness_StepRunsTheFrontCommand : State.reset.pending = [] := by decide

theorem witness_NothingHappensWhileResetIsAsserted :
    ({ State.reset with resetPeriod := some .pin } : State).resetPeriod ≠ none ∧ isResetSource (.ping .A) = false := by
  decide +kernel

theorem witness_ResetPeriodsEnd :
    (let s : State := { State.reset with resetPeriod := some .pin, rstnLow := true }
     s.resetPeriod = some .pin ∧ s.dipLow = false ∧ s.powerLow = false) ∧
    (let s : State := { State.reset with resetPeriod := some .supplyDip, dipLow := true, resetCount := 255 }
     s.resetPeriod = some .supplyDip ∧ s.rstnLow = false) ∧
    (let s : State := { State.reset with resetPeriod := some .powerOn, powerLow := true }
     s.rstnLow = false ∧ s.dipLow = false) ∧
    (let f := frame 0x9F [0, 0, 0]
     let s := live.putPort .A { live.ports.at .A with restartPending := true, sending := some f }
     s.resetPeriod = none ∧ s.rstnLow = false ∧ s.dipLow = false ∧ s.powerLow = false ∧
       (s.ports.at .A).restartPending = true ∧ (s.ports.at .A).sending = some f ∧ f.kind = 0x9F ∧
       f.payload.head? = some 0) ∧
    let s : State := { State.reset with resetPeriod := some .pin, rstnLow := true, dipLow := true }
    s.resetPeriod ≠ none ∧ (s.dipLow = true ∨ s.powerLow = true) ∧ s.rstnLow = true := by
  decide +kernel

theorem witness_TheFirstChecksOfARequest :
    (∀ k : ReqKind, let s := asks .A k [0, 0, 0, 0, 0] State.reset
      s.takes .A (frame k.code [0, 0, 0, 0, 0]) ∧ (5 : Nat) ≠ k.length) ∧
    (∀ k : ReqKind, let f := frame k.code (List.replicate k.length 0)
      let s := asks .B k f.payload State.reset
      s.takes .B f ∧ f.payload.length = k.length ∧ s.isOpen .B = false) := by
  constructor <;> (intro k; cases k <;> decide +kernel)

theorem witness_UnknownKindsAreRejected :
    (let s := State.reset.putPort .A { State.reset.ports.at .A with requests := [frame 0x20 []] }
     s.takes .A (frame 0x20 [])) ∧ (∀ k : ReqKind, (0x20 : Byte) ≠ k.code) ∧
    (State.reset.ports.at .A).requests = [] ∧
    (let s := State.reset.putPort .A { State.reset.ports.at .A with responses := List.replicate 4 (frame 0x81 [0, 0, 0]) }
     4 ≤ (s.ports.at .A).responses.length) ∧
    (State.reset.putPort .A { State.reset.ports.at .A with restartPending := true }).ports.a.restartPending = true := by
  refine ⟨by decide +kernel, fun k => by cases k <;> decide, by decide, by decide, by decide⟩

theorem witness_HelloReportsThePart :
    served .A .hello [] State.reset := by decide +kernel

theorem witness_OpenMakesAFreshSession :
    least.inRange ∧ most.inRange ∧ served .A .openSession (least.payload true) quiet ∧
      (quiet.sessions.at .A).state = .closed ∧ served .A .openSession (most.payload true) live ∧
      (live.sessions.at .A).state = .opened least 21200 ∧ served .B .openSession (least.payload false) failed ∧
      (failed.sessions.at .B).state = .lapsed most .silence 99999 ∧ least.tag ≠ most.tag ∧
      served .A .openSession (openPayload 0 99 0 19 0 601 2) live ∧ served .A .openSession (most.payload false) live ∧
      live.isOpen .A = true := by
  decide +kernel

theorem witness_OpenResumesALapsedSession :
    let prm := { least with tag := 65535 }
    prm.inRange ∧ served .B .openSession (prm.payload true) failed ∧
      (failed.sessions.at .B).state = .lapsed most .silence 99999 ∧ prm.tag = most.tag := by
  decide +kernel

theorem witness_requests_without_arguments :
    served .A .close [] live ∧ served .A .ping [] live ∧ served .A .readLines [] live := by
  decide +kernel

/-- Session p holding n records, none of them of a set. -/
def hold (p : Port) (n : Nat) (s : State) : State :=
  s.putJournal p { inflight := [], unsent := List.replicate n { stamp := 0, body := .timeMark 0 1 } }

theorem witness_SetTimeMovesTheCount :
    served .A .setTime (leBytes 4 (0xFFFFFFFF : Time).toNat) failed ∧
      ((failed.journals.at .A).holding < 64 ∧ (failed.journals.at .A).holding < 192 ∧ 2 ≤ failed.sharedFree) ∧
      (let s := hold .A 64 (hold .B 192 failed)
       served .A .setTime (leBytes 4 0) s ∧ 64 ≤ (s.journals.at .A).holding ∧ s.sharedFree = 0 ∧
         192 ≤ (s.journals.at .B).holding) ∧
      (let s := hold .A 64 (hold .B 63 failed)
       served .A .setTime (leBytes 4 0) s ∧ ((s.sessions.at .A).state ≠ .closed ∧ 64 ≤ (s.journals.at .A).holding ∧
         (s.journals.at .A).holding < 192) ∧ (s.journals.at .B).holding < 64 ∧ 1 ≤ s.sharedFree) ∧
      (let s := hold .A 64 (hold .B 191 failed)
       served .A .setTime (leBytes 4 0) s ∧ (s.sessions.at .A).state ≠ .closed ∧ (s.journals.at .A).holding = 64 ∧
         (s.sessions.at .B).state ≠ .closed ∧ (s.journals.at .B).holding = 191 ∧ s.sharedFree = 1) := by
  decide +kernel

theorem witness_RestartBecomesPending :
    served .A .restart [byteOf 0] live ∧ live.isOpen Port.A.other = false ∧ served .A .restart [byteOf 0] both ∧
      both.isOpen Port.A.other = true ∧ served .A .restart [byteOf 1] both ∧ served .A .restart [byteOf 2] live ∧
      served .A .restart [byteOf 255] live := by
  decide +kernel

/-! ### Witnesses: lines -/

theorem witness_ConfigLineSendsLinesThroughInit :
    (let named : LineId → Bool := fun l => decide (l = 63)
     let c : LineConfig :=
       { enable := false, invert := true, debounce := 250, chatterLimit := 63, chatterWindow := 10000, counted := .both }
     c.inRange ∧ (∃ l, named l = true) ∧ (∀ l, named l = true → ¬ live.watches l) ∧
       served .A .configLine
         (configPayload named c.enable.toNat c.invert.toNat c.debounce c.chatterLimit c.chatterWindow c.counted.byte.toNat)
         live) ∧
    served .A .configLine (configPayload (fun _ => false) 2 2 251 64 9 4) live ∧
    let named : LineId → Bool := fun l => decide (l = 0)
    let s := withSet .A .each .armed live
    served .A .configLine (configPayload named 1 0 0 0 10 0) s ∧ ∃ l, named l = true ∧ s.watches l := by
  refine ⟨⟨by decide +kernel, by decide +kernel, fun l hl => ?_, by decide +kernel⟩, by decide +kernel, by decide +kernel,
    0, by decide, watched (by decide +kernel)⟩
  have : l = 63 := by simpa using hl
  exact not_watched (by subst this; decide +kernel)

theorem witness_ReadLineConfigReportsARun :
    let serves (first count : Nat) : Bool := served .A .readLineConfig [byteOf first, byteOf count] live
    serves 0 16 ∧ serves 63 1 ∧ serves 64 1 ∧ serves 0 0 ∧ serves 0 17 ∧ serves 63 2 := by
  decide +kernel

theorem witness_ReadCountersReportsAndClears :
    let serves (first count clear : Nat) : Bool :=
      served .A .readCounters [byteOf first, byteOf count, byteOf clear] live
    serves 48 16 1 ∧ serves 0 1 0 ∧ serves 0 1 2 ∧ serves 255 255 255 := by
  decide +kernel

theorem witness_ReadLinesReportsEveryLine :
    (served .A .readLines [] live ∧ ∀ l, (live.lines.at l).waiting = none) ∧
    let s := waiting 63 (.stable false) false true live
    served .A .readLines [] s ∧ ∃ l, (s.lines.at l).waiting ≠ none := by
  decide +kernel

/-! ### Witnesses: sets -/

theorem witness_SetRequestsMakeTheirFirstChecks :
    served .A .defineSet (byteOf 16 :: List.replicate 9 0) live ∧
    (∀ k ∈ [ReqKind.armSet, .disarmSet, .deleteSet, .readSet, .ackSet, .resyncSet, .adoptSet],
      served .A k [byteOf 16] live) ∧
    ∀ k ∈ [ReqKind.armSet, .disarmSet, .deleteSet, .ackSet, .resyncSet],
      served .A k [byteOf 15] live ∧ live.sets.at 15 = none ∧
        (let s := withSet .B .each .idle both
         served .A k [byteOf 15] s ∧ s.sets.at 15 = some (pair .B .each .idle) ∧ (pair .B .each .idle).owner ≠ .A) := by
  decide +kernel

theorem witness_DefineSetDefinesASet :
    let named : LineId → Bool := fun l => decide (l = 63)
    let pay (mode : Nat) (named : LineId → Bool) := [byteOf 15, byteOf mode] ++ maskBytes 8 64 named
    let serves (s : State) (mode : Nat) (named : LineId → Bool) : Bool := served .A .defineSet (pay mode named) s
    serves live 3 named ∧ serves live 0 (fun _ => false) ∧ (∃ l, named l = true) ∧ serves live 2 named ∧
      serves (withSet .A .each .idle live) 1 named ∧ serves (withSet .A .each .armed live) 1 named ∧
      serves (withSet .B .each .idle both) 1 named ∧
      both.sets.at 15 = none ∧ served .A .defineSet (pay 0 named) (asks .B .defineSet (pay 1 named) both) ∧
      served .B .defineSet (pay 1 named) (asks .A .defineSet (pay 0 named) both) := by
  decide +kernel

/-- Session A asks for something of its set W15, on whose members every level is known. -/
def meets (k : ReqKind) (mode : SetMode) (phase : SetPhase) : Bool :=
  let s := withSet .A mode phase live
  served .A k [byteOf 15] s && decide (s.sets.at 15 = some (pair .A mode phase)) &&
    decide ((pair .A mode phase).owner = .A) &&
    decide ((pair .A mode phase).members.map s.level = [false, false].map some)

theorem witness_ArmSetTakesTheLevels :
    meets .armSet .each .idle ∧ meets .armSet .each .armed ∧
      (let s := (withSet .A .each .idle live).putLine 1 LineRec.reset
       served .A .armSet [byteOf 15] s ∧ ∃ l ∈ (pair .A .each .idle).members, s.level l = none) := by
  decide +kernel

theorem witness_DisarmDeleteRead :
    meets .disarmSet .each (.stale .overrun) ∧ meets .disarmSet .each .idle ∧ meets .deleteSet .each .idle ∧
      meets .deleteSet .each .armed ∧ meets .readSet .each .armed ∧
      served .A .readSet [byteOf 0] live ∧
      (pair .A .each .armed).members.Nodup := by
  decide +kernel

theorem witness_AckSetAcknowledgesASummarySet :
    meets .ackSet .summary .armed ∧ meets .ackSet .each .armed ∧ meets .ackSet .summary (.stale .adopted) := by
  decide +kernel

theorem witness_ResyncSetAdmitsAMark :
    meets .resyncSet .each .armed ∧ meets .resyncSet .latest (.stale .overrun) ∧ meets .resyncSet .each .idle ∧
      meets .resyncSet .summary (.stale .adopted) ∧ (live.journals.at .A).holding < 64 ∧
      (let s := hold .A 192 (withSet .A .each .armed live)
       served .A .resyncSet [byteOf 15] s ∧ ¬ (s.journals.at .A).holding < 192) := by
  decide +kernel

theorem witness_AdoptSetMovesALapsedSessionsSet :
    let serves (s : State) : Bool := served .A .adoptSet [byteOf 15] s
    serves live ∧ live.sets.at 15 = none ∧ serves (withSet .A .each .armed live) ∧ serves (withSet .B .each .armed both) ∧
      both.isLapsed Port.A.other = false ∧ serves (withSet .B .each .armed failed) ∧
      serves (withSet .B .each .idle failed) ∧ failed.isLapsed Port.A.other = true ∧
      ([0, 14] : List SetId).Pairwise (· < ·) := by
  decide +kernel

/-! ### Witnesses: journals -/

/-- Records 1 and 2 INFLIGHT in the journal of A, and one UNSENT record. -/
def sent (s : State) : State :=
  (s.putJournal .A
    { inflight := [{ seq := 1, entry := { stamp := 1, body := .change 15 0 true none } },
        { seq := 2, entry := { stamp := 2, body := .change 15 1 true none } }]
      unsent := [{ stamp := 3, body := .change 15 0 false none }] }).putEngine .A
    { Engine.reset with nextSeq := 3, goBack := some 1, retransmit := some 20000 }

theorem witness_AckFoldsAndRemoves :
    let s := sent (withSet .A .each .armed live)
    let serves (n : Seq) : Bool := served .A .ack (leBytes 2 n.toNat) s
    (s.sessions.at .A).state = .opened least 21200 ∧ serves 3 ∧ 255 < ((s.engines.at .A).nextSeq - 1 - 3).toNat ∧
      serves 0 ∧ ((s.engines.at .A).nextSeq - 1 - 0).toNat = (s.journals.at .A).inflight.length ∧
      serves 1 ∧ serves 2 ∧ ((s.engines.at .A).nextSeq - 1 - 2).toNat < (s.journals.at .A).inflight.length ∧
      [false, true].length = (pair .A .each .armed).members.length := by
  decide +kernel

theorem witness_JournalStatusReportsThePool :
    let serves (c : Nat) : Bool := served .A .journalStatus [byteOf c] (sent live)
    serves 0 ∧ serves 1 ∧ serves 2 := by
  decide +kernel

/-! ### Witnesses: outputs -/

/-- Output O15 in this state. -/
def withOut (st : OutState) (s : State) : State :=
  s.putOutput 15 { Output.reset with state := st, latch := true, verify := .ok }

def o15 (o : OutId) : Bool := decide (o = 15)

theorem witness_ClaimOutputTakesAllOrNone :
    let serves (s : State) (named : OutId → Bool) (take : Nat) : Bool :=
      served .A .claimOutput (maskBytes 2 16 named ++ [byteOf take]) s
    serves live o15 2 ∧ serves live (fun _ => false) 1 ∧ (∃ o, o15 o = true) ∧ serves live o15 0 ∧
      serves (withOut (.owned .A) live) o15 0 ∧ serves (withOut (.owned .B) both) o15 1 ∧
      (both.isLapsed Port.A.other = false ∧ ((withOut (.owned .B) both).outputs.at 15).state.owner = some Port.A.other) ∧
      serves (withOut (.safeHeld .B) failed) o15 1 ∧ failed.isLapsed Port.A.other = true ∧
      ([0, 14] : List OutId).Pairwise (· < ·) := by
  decide +kernel

theorem witness_ReleaseOutputFreesTheNamed :
    let serves (s : State) (named : OutId → Bool) : Bool := served .A .releaseOutput (maskBytes 2 16 named) s
    serves live (fun _ => false) ∧ serves live o15 ∧ (live.outputs.at 15).state.owner ≠ some .A ∧
      serves (withOut (.owned .A) live) o15 ∧
      (∀ o, o15 o = true → ((withOut (.owned .A) live).outputs.at o).state.owner = some .A) := by
  decide +kernel

theorem witness_WriteOutputsWritesTheLatches :
    let serves (s : State) (set clear : OutId → Bool) : Bool :=
      served .A .writeOutputs (maskBytes 2 16 set ++ maskBytes 2 16 clear) s
    let none : OutId → Bool := fun _ => false
    serves live none none ∧ serves live o15 o15 ∧ serves live o15 none ∧ serves (withOut (.safeHeld .A) live) o15 none ∧
      serves (withOut (.owned .A) live) none o15 := by
  decide +kernel

theorem witness_ConfigOutputWritesTheFields :
    let serves (s : State) (o safe grace enable time : Nat) : Bool :=
      served .A .configOutput ([byteOf o, byteOf safe] ++ leBytes 2 grace ++ [byteOf enable, byteOf time]) s
    serves live 16 2 60001 2 251 ∧ serves live 0 0 0 0 0 ∧ serves live 15 1 60000 1 250 ∧
      serves (withOut (.owned .A) live) 15 1 60000 1 250 ∧ serves (withOut (.owned .A) live) 15 0 0 0 1 := by
  decide +kernel

theorem witness_ReadOutputsReportsAndClears :
    let serves (s : State) (named : OutId → Bool) : Bool := served .A .readOutputs (maskBytes 2 16 named) s
    serves live o15 ∧ (live.outputs.at 15).state.owner ≠ some .A ∧ serves live (fun _ => false) ∧
      serves (withOut (.owned .A) live) o15 := by
  decide +kernel

/-! ### Witnesses: line events -/

/-- Line l runs with debounce 0 and the chatter limit given. -/
def undebounced (l : LineId) (limit : Nat) (state : LineState) (last x : Bool) (s : State) : State :=
  s.putLine l
    { LineRec.reset with
      config := { LineConfig.reset with debounce := 0, chatterLimit := limit }, state := state, lastRaw := some last,
      waiting := some x }

theorem witness_ARawEdgeStartsTimers :
    (let s := waiting 0 (.init none) false true live
     s.resetPeriod = none ∧ (s.lines.at 0).waiting = some true ∧ (s.lines.at 0).lastRaw = some (!true) ∧
       (s.lines.at 0).config.debounce ≠ 0 ∧ ((s.lines.at 0).expireWindow s.now).state = .init none) ∧
    (let s := waiting 0 (.chatter false 99999) false true live
     (s.lines.at 0).waiting = some true ∧ (s.lines.at 0).lastRaw = some (!true) ∧
       ((s.lines.at 0).expireWindow s.now).state = .chatter false 99999) ∧
    (let s := waiting 0 (.stable false) false true live
     (s.lines.at 0).waiting = some true ∧ (s.lines.at 0).lastRaw = some (!true) ∧
       ((s.lines.at 0).expireWindow s.now).state = .stable false ∧ (true ^^ (s.lines.at 0).config.invert) ≠ false) ∧
    (let s := undebounced 63 0 (.init none) false true live
     (s.lines.at 63).config.debounce = 0 ∧ (s.lines.at 63).lastRaw = some (!true) ∧
       ((s.lines.at 63).expireWindow s.now).state = .init none) ∧
    (let s := undebounced 47 1 (.stable false) false true live
     let r := (s.lines.at 47).expireWindow s.now
     r.state = .stable false ∧ (true ^^ r.config.invert) ≠ false ∧ r.chatterCount + 1 ≤ r.config.chatterLimit ∧
       (47 : LineId).val < 48) ∧
    (let s := (undebounced 47 1 (.stable false) false true live).putLine 47
       { (undebounced 47 1 (.stable false) false true live).lines.at 47 with
         chatterCount := 1, windowTimer := some 99999 }
     let r := (s.lines.at 47).expireWindow s.now
     r.state = .stable false ∧ ¬ (r.config.chatterLimit = 0 ∨ r.chatterCount + 1 ≤ r.config.chatterLimit)) ∧
    ∀ l : LineId, let s := waiting l (.pending true 4990 20000) false true live
    (s.lines.at l).waiting = some true ∧ (s.lines.at l).state = .pending true 4990 20000 ∧
      (true ^^ (s.lines.at l).config.invert) = true ∧ (s.lines.at l).lastRaw = some (!true) ∧ 20000 ≤ s.now := by
  decide +kernel

/-- Line L0 without debounce, followed by the set W15 of session A in EACH mode. -/
theorem witness_ARawEdgeStartsTimers_followed :
    (undebounced 0 0 (.stable false) false true (withSet .A .each .armed live)).followedBy 0 15 (pair .A .each .armed) :=
  followed (by rfl) rfl (by decide) (by decide +kernel)

theorem witness_unfollowed : (undebounced 47 1 (.stable false) false true live).unfollowed 47 :=
  not_followed (by decide +kernel)

theorem witness_TheSettleExpiryEstablishesD :
    (let s := waiting 0 (.init (some 20000)) true true live
     s.resetPeriod = none ∧ (s.lines.at 0).waiting = some true ∧ (s.lines.at 0).state = .init (some 20000) ∧
       20000 ≤ s.now ∧ (s.lines.at 0).lastRaw ≠ some (!true)) ∧
    let s := undebounced 63 0 (.init none) false true live
    (s.lines.at 63).waiting = some true ∧ (s.lines.at 63).state = .init none ∧ (s.lines.at 63).config.debounce = 0 := by
  decide +kernel

/-- Line L0 at the expiry of its debounce timer, its input at 1 and D at 0, with a chatter limit. -/
def due (l : LineId) (limit count : Nat) (s : State) : State :=
  s.putLine l
    { LineRec.reset with
      config := { LineConfig.reset with chatterLimit := limit }, state := .pending false 4990 20000, lastRaw := some true,
      waiting := some true, chatterCount := count, windowTimer := if count = 0 then none else some 20001 }

theorem witness_TheDebounceExpiryDecides :
    (let s := due 47 0 0 live
     s.resetPeriod = none ∧ (s.lines.at 47).changeDue s.now false 4990 20000 true ∧ (47 : LineId).val < 48) ∧
    (let s := due 0 3 2 live
     (s.lines.at 0).changeDue s.now false 4990 20000 true) ∧
    let s := due 0 3 3 live
    let r := (s.lines.at 0).expireWindow s.now
    (s.lines.at 0).waiting = some true ∧ r.state = .pending false 4990 20000 ∧ 20000 ≤ s.now ∧
      (true ^^ r.config.invert) = !false ∧ r.config.chatterLimit ≠ 0 ∧ r.config.chatterLimit < r.chatterCount + 1 := by
  decide +kernel

/-- Line L0 in this state, at the expiry of its chatter window. -/
def windowOver (state : LineState) (last x : Bool) : State :=
  live.putLine 0
    { LineRec.reset with
      state := state, lastRaw := some last, waiting := some x, chatterCount := 3, windowTimer := some 20000 }

theorem witness_TheQuietExpiryEndsTheChatter :
    (let s := waiting 0 (.chatter false 20000) true true live
     let r := (s.lines.at 0).expireWindow s.now
     s.resetPeriod = none ∧ (s.lines.at 0).waiting = some true ∧ r.state = .chatter false 20000 ∧ 20000 ≤ s.now ∧
       r.lastRaw ≠ some (!true)) ∧
    (let r := (windowOver (.stable false) false false).lines.at 0
     r.waiting = some false ∧ r.windowTimer = some 20000 ∧ r.state = .stable false ∧ (false ^^ r.config.invert) = false) ∧
    (let s := windowOver (.pending false 4990 20001) true true
     let r := s.lines.at 0
     20000 ≤ s.now ∧ r.state = .pending false 4990 20001 ∧ (true ^^ r.config.invert) = !false ∧ s.now < 20001) ∧
    ((windowOver (.stable false) false true).lines.at 0).lastRaw = some (!true) ∧
    let s := windowOver (.pending false 4990 20000) true true
    (s.lines.at 0).state = .pending false 4990 20000 ∧ 20000 ≤ s.now := by
  decide +kernel

/-- Line L0 at its debounce expiry, followed by the set W15 of session A in this mode. -/
def followedDue (mode : SetMode) (limit count : Nat) : State := due 0 limit count (withSet .A mode .armed live)

theorem witness_followedDue (mode : SetMode) (limit count : Nat) :
    (followedDue mode limit count).followedBy 0 15 (pair .A mode .armed) := by
  have h : ∀ v, v ≠ 15 → (followedDue mode 0 0).setFollows v 0 = false := by cases mode <;> decide +kernel
  exact followed (by cases mode <;> rfl) rfl (by cases mode <;> decide +kernel) h

theorem witness_RecordModeSetsRecordTheEvents :
    (let s := followedDue .each 0 0
     s.resetPeriod = none ∧ (s.lines.at 0).changeDue s.now false 4990 20000 true ∧ (s.journals.at .A).holding < 64) ∧
    (let s := hold .A 192 (followedDue .each 0 0)
     (s.lines.at 0).changeDue s.now false 4990 20000 true ∧ ¬ (s.journals.at .A).holding < 192) ∧
    (let s := followedDue .latest 3 3
     let r := (s.lines.at 0).expireWindow s.now
     (s.lines.at 0).waiting = some true ∧ r.state = .pending false 4990 20000 ∧ 20000 ≤ s.now ∧
       (true ^^ r.config.invert) = !false ∧ r.config.chatterLimit ≠ 0 ∧ r.config.chatterLimit < r.chatterCount + 1) ∧
    let s := waiting 0 (.chatter false 20000) true true (followedDue .each 0 0)
    let r := (s.lines.at 0).expireWindow s.now
    (s.lines.at 0).waiting = some true ∧ r.state = .chatter false 20000 ∧ r.lastRaw ≠ some (!true) := by
  decide +kernel

theorem witness_RecordModeSetsRecordTheEvents_full :
    (hold .A 192 (followedDue .each 0 0)).followedBy 0 15 (pair .A .each .armed) ∧
      (waiting 0 (.chatter false 20000) true true (followedDue .each 0 0)).followedBy 0 15 (pair .A .each .armed) :=
  ⟨followed (by rfl) rfl (by decide) (by decide +kernel), followed (by rfl) rfl (by decide) (by decide +kernel)⟩

theorem witness_a_set_hears :
    ∀ mode ∈ [SetMode.each, .latest, .summary], (withSet .A mode .armed live).sets.at 15 = some (pair .A mode .armed) ∧
      (pair .A mode .armed).phase = .armed ∧ 0 ∈ (pair .A mode .armed).members ∧ (pair .A mode .armed).mode = mode ∧
      (pair .A mode .armed).snapshot = some [false, false] := by
  decide +kernel

/-- The CHANGE record of W15 for L0, as a LATEST set would have it. -/
def change15 (folded : Option (Nat × Time)) : Rec := { stamp := 4000, body := .change 15 0 true folded }

theorem witness_ALatestSetAbsorbsTheChange :
    (let s := followedDue .latest 0 0
     s.resetPeriod = none ∧ (s.lines.at 0).changeDue s.now false 4990 20000 true ∧ (s.journals.at .A).unsent = []) ∧
    (∀ behind ∈ [[], [{ stamp := 9, body := .timeMark 1 9 }, { stamp := 5, body := .chatterStart 15 0 true }]],
      let s := (followedDue .latest 0 0).putJournal .A
        { inflight := [], unsent := [] ++ change15 (some (255, 4001)) :: behind }
      (s.lines.at 0).changeDue s.now false 4990 20000 true) ∧
    let s := hold .A 192 (followedDue .latest 0 0)
    (s.lines.at 0).changeDue s.now false 4990 20000 true ∧ ¬ (s.journals.at .A).holding < 192 := by
  decide +kernel

theorem witness_ASummarySetRaisesAttention :
    (let s := followedDue .summary 0 0
     let ws := pair .A .summary .armed
     s.resetPeriod = none ∧ (s.lines.at 0).changeDue s.now false 4990 20000 true ∧ ws.mode = .summary ∧
       ws.snapshot = some [false, false] ∧ [false, false].length = ws.members.length ∧ ws.members.Nodup ∧
       ws.members.map s.level = [false, false].map some) ∧
    (let s := (followedDue .summary 0 0).putLine 1 { LineRec.reset with state := .stable true }
     (pair .A .summary .armed).members.map s.level ≠ [false, false].map some) ∧
    let s := waiting 0 (.chatter false 20000) true true (followedDue .summary 0 0)
    (s.lines.at 0).waiting = some true ∧ (s.lines.at 0).state = .chatter false 20000 ∧ 20000 ≤ s.now ∧
      (s.lines.at 0).lastRaw ≠ some (!true) ∧ (true ^^ (s.lines.at 0).config.invert) ≠ false ∧
      (pair .A .summary .armed).members.map s.level = [false, false].map some := by
  decide +kernel

theorem witness_ASummarySetRaisesAttention_chatter :
    (waiting 0 (.chatter false 20000) true true (followedDue .summary 0 0)).followedBy 0 15 (pair .A .summary .armed) :=
  followed (by rfl) rfl (by decide) (by decide +kernel)

/-- L0 and the readback line L63 are members of two ARMED sets, W14 of session B and W15 of session A. -/
def twice (s : State) : State :=
  let both (p : Port) : WatchSet := { pair p .each .armed with members := [0, 63] }
  (s.putSet 14 (some (both .B))).putSet 15 (some (both .A))

theorem witness_AnEventReachesEveryFollower :
    (twice (due 63 0 0 failed)).raises 63 (.debounceExpiry 63) (.change true 4990)
      (((twice (due 63 0 0 failed)).lines.at 63).changed 20000 false true) ∧
    (twice (undebounced 0 0 (.stable false) false true failed)).raises 0 (.rawEdge 0) (.change true 5000)
      (((twice (undebounced 0 0 (.stable false) false true failed)).lines.at 0).changed 20000 false true) ∧
    (twice (due 0 3 3 failed)).raises 0 (.debounceExpiry 0) (.chatterStart false 5000)
      (((twice (due 0 3 3 failed)).lines.at 0).frozen 20000 false true) ∧
    (twice (waiting 63 (.chatter false 20000) true true failed)).raises 63 (.quietExpiry 63) (.chatterEnd true 5000 true)
      (((twice (waiting 63 (.chatter false 20000) true true failed)).lines.at 63).calmed 20000 false true) := by
  refine ⟨⟨rfl, true, rfl, Or.inl ⟨false, 4990, Or.inl ⟨rfl, 20000, rfl, le_refl _⟩, rfl, Or.inl ⟨Or.inl rfl, rfl, rfl⟩⟩⟩,
    ⟨rfl, true, rfl, Or.inl ⟨false, 5000, Or.inr ⟨rfl, rfl, rfl, rfl, rfl⟩, rfl, Or.inl ⟨Or.inl rfl, rfl, rfl⟩⟩⟩,
    ⟨rfl, true, rfl, Or.inl ⟨false, 4990, Or.inl ⟨rfl, 20000, rfl, le_refl _⟩, rfl, Or.inr ⟨by decide +kernel, rfl, rfl⟩⟩⟩,
    ⟨rfl, true, rfl, Or.inr ⟨false, 20000, rfl, rfl, le_refl _, by decide +kernel, rfl, rfl⟩⟩⟩

/-! ### Witnesses: notices, sessions, outputs, ports -/

theorem witness_ANoticeIsBuiltAndSent :
    (let s := sent (withSet .A .each .armed live)
     s.resetPeriod = none ∧ (s.sessions.at .A).state = .opened least 21200 ∧ (s.ports.at .A).sending = none ∧
       (s.ports.at .A).responses = [] ∧ (∀ r ∈ (s.journals.at .A).records, r.bytes.length ≤ 16) ∧
       (s.engines.at .A).goBack ≠ none) ∧
    (let s := hold .A 1 live
     (∀ r ∈ (s.journals.at .A).records, r.bytes.length ≤ 16) ∧
       ((s.journals.at .A).unsent ≠ [] ∧ (s.journals.at .A).inflight.length < least.window)) ∧
    (let s := live.raiseStatus .A
     (s.sessions.at .A).state = .opened least 21200 ∧ (s.engines.at .A).statusChanged = true) ∧
    quiet.isOpen .A = false ∧
    ((live.engines.at .A).goBack = none ∧ (live.engines.at .A).statusChanged = false ∧ (live.journals.at .A).unsent = []) ∧
    (let s := (live.raiseStatus .A).putPort .A { live.ports.at .A with responses := [frame 0x81 [0, 0, 0]] }
     (s.ports.at .A).responses ≠ []) ∧
    (let s := (sent live).putEngine .A { (sent live).engines.at .A with goBack := none }
     (s.engines.at .A).goBack = none ∧ (s.engines.at .A).statusChanged = false ∧ (s.journals.at .A).unsent ≠ [] ∧
       (s.sessions.at .A).state = .opened least 21200 ∧ least.window ≤ (s.journals.at .A).inflight.length) := by
  decide +kernel

theorem witness_TheRetransmitExpiryGoesBackOrLapses :
    (let s := sent live
     s.resetPeriod = none ∧ (s.sessions.at .A).state = .opened least 21200 ∧
       (s.engines.at .A).retransmit = some 20000 ∧ 20000 ≤ s.now ∧ (s.engines.at .A).retryCount + 1 ≤ least.retryLimit) ∧
    let s := (sent live).putEngine .A { (sent live).engines.at .A with retryCount := 1 }
    (s.engines.at .A).retransmit = some 20000 ∧ least.retryLimit < (s.engines.at .A).retryCount + 1 := by
  decide +kernel

theorem witness_ExpiriesOfSessionsAndGrace :
    (let s := quiet.putSession .B { Session.reset with state := .opened most 20000 }
     s.resetPeriod = none ∧ (s.sessions.at .B).state = .opened most 20000 ∧ 20000 ≤ s.now) ∧
    (let s := quiet.putSession .B { Session.reset with state := .lapsed most .retry 20000 }
     (s.sessions.at .B).state = .lapsed most .retry 20000 ∧ 20000 ≤ s.now) ∧
    let s := withOut (.grace .B 20000) failed
    (s.outputs.at 15).state = .grace .B 20000 ∧ 20000 ≤ s.now := by
  decide +kernel

/-- Output O15, owned by A and driving 1, with this verify state, and its readback line L63 in this state. -/
def verifying (v : VerifyState) (line : LineState) : State :=
  (live.putOutput 15 { Output.reset with state := .owned .A, latch := true, verify := v }).putLine 63
    { LineRec.reset with state := line, lastRaw := some false }

theorem witness_TheReadbackIsJudged_at_the_expiry :
    (∀ line ∈ [LineState.pending true 0 0, .init none, .chatter true 0, .disabled none, .stable true, .stable false],
      let s := verifying (.waiting (some 20000)) line
      s.resetPeriod = none ∧ (s.outputs.at 15).verify = .waiting (some 20000) ∧ 20000 ≤ s.now ∧
        (s.lines.at (OutId.readback 15)).state = line) ∧
    (let s := hold .A 192 (verifying (.waiting (some 20000)) (.stable false))
     (s.outputs.at 15).fault = false ∧ (s.outputs.at 15).state.owner = some .A ∧ ¬ (s.journals.at .A).holding < 192) := by
  decide +kernel

theorem witness_TheReadbackIsJudged_at_changes :
    (let s := waiting 63 (.init (some 20000)) true true (verifying .unverified (.stable false))
     let r := (s.lines.at 63).expireWindow s.now
     r.state = .init (some 20000) ∧ 20000 ≤ s.now ∧ r.lastRaw ≠ some (!true) ∧ (s.outputs.at 15).verify = .unverified) ∧
    (let s := undebounced 63 0 (.init none) false true (verifying .unverified (.stable false))
     let r := (s.lines.at 63).expireWindow s.now
     (s.lines.at 63).waiting = some true ∧ r.state = .init none ∧ r.config.debounce = 0) ∧
    (let s := waiting 63 (.pending true 0 20000) true true (verifying .deferred (.stable false))
     let r := (s.lines.at 63).expireWindow s.now
     r.state = .pending true 0 20000 ∧ (true ^^ r.config.invert) = true ∧ 20000 ≤ s.now ∧
       (s.outputs.at 15).verify = .deferred) ∧
    let s := waiting 63 (.pending true 0 20001) false true (verifying .deferred (.stable false))
    let r := (s.lines.at 63).expireWindow s.now
    r.state = .pending true 0 20001 ∧ (true ^^ r.config.invert) = true ∧ r.lastRaw = some (!true) ∧
      (s.outputs.at 15).verify = .deferred := by
  decide +kernel

theorem witness_TheReadbackIsJudged_at_events :
    let s := due 63 0 0 (verifying .ok (.stable false))
    s.unfollowed (OutId.readback 15) ∧ s.raises (OutId.readback 15) (.debounceExpiry (OutId.readback 15)) (.change true 4990)
      ((s.lines.at (OutId.readback 15)).changed s.now false true) :=
  ⟨not_followed (by decide +kernel), rfl, true, rfl, Or.inl ⟨false, 4990, Or.inl ⟨rfl, 20000, rfl, le_refl _⟩, rfl,
    Or.inl ⟨Or.inl rfl, rfl, rfl⟩⟩⟩

/-- The receiver of port A in this state, on an idle line. -/
def receiving (r : Receiver) : State := live.putPort .A { live.ports.at .A with receiver := r, awaitIdle := false }

theorem witness_CharactersBuildAFrame :
    (∀ r ∈ [Receiver.hunt, .length 20000, .body 2 [] 20000, .body 248 [1] 20000, .crc 2 [1, 7] none 20000],
      ((receiving r).ports.at .A).awaitIdle = false ∧ ((receiving r).ports.at .A).receiver = r) ∧
    (receiving .hunt).resetPeriod = none ∧ 20000 ≤ (receiving .hunt).now := by
  decide +kernel

theorem witness_TheCheckDecidesTheFrame :
    let s := receiving (.crc 2 [0x01, 0x07] (some 0xF1) 20000)
    s.resetPeriod = none ∧ (s.ports.at .A).awaitIdle = false ∧
      (s.ports.at .A).receiver = .crc 2 (0x01 :: 0x07 :: []) (some 0xF1) 20000 := by
  decide +kernel

theorem witness_FramingErrorsDiscardAndBreaksWait :
    (State.reset.resetPeriod = none ∧ (State.reset.ports.at .A).awaitIdle = true) ∧
    (((receiving .hunt).ports.at .A).awaitIdle = false ∧ ((receiving .hunt).ports.at .A).receiver = .hunt) ∧
    ((receiving (.length 1)).ports.at .A).awaitIdle = false ∧ ((receiving (.length 1)).ports.at .A).receiver ≠ .hunt := by
  decide +kernel

theorem witness_TheTransmitterSendsAndEnds :
    let f := frame 0x81 [0, 0, 0]
    (let s := live.putPort .A { live.ports.at .A with responses := [f] }
     s.resetPeriod = none ∧ (s.ports.at .A).sending = none ∧ (s.ports.at .A).responses = f :: []) ∧
    (let s := live.putPort .A { live.ports.at .A with sending := some f }
     (s.ports.at .A).sending = some f ∧ (s.ports.at .A).restartPending = false) := by
  decide +kernel

theorem witness_ASampleIsTakenAtEveryLine :
    live.resetPeriod = none ∧
    (let s := waiting 0 (.stable false) false true live
     (s.lines.at 0).waiting = some true ∧ (s.lines.at 0).lastRaw = some (!true)) ∧
    (let r := (waiting 0 (.init (some 20000)) true true live).lines.at 0
     r.waiting = some true ∧ r.state = .init (some 20000) ∧ r.lastRaw ≠ some (!true)) ∧
    (let r := (due 0 0 0 live).lines.at 0
     r.waiting = some true ∧ r.state = .pending false 4990 20000) ∧
    (let r := (waiting 0 (.chatter false 20000) true true live).lines.at 0
     r.waiting = some true ∧ r.state = .chatter false 20000 ∧ r.lastRaw ≠ some (!true)) ∧
    let s := windowOver (.stable false) false false
    (s.lines.at 0).waiting = some false ∧ (s.lines.at 0).windowTimer = some 20000 ∧ 20000 ≤ s.now := by
  decide +kernel

/-! ### Worked values of the spec -/

theorem test_crc_check_value : crc16 [0x31, 0x32, 0x33, 0x34, 0x35, 0x36, 0x37, 0x38, 0x39] = 0x29B1 := by decide +kernel

/-- HELLO after a power-on: 64 lines in INIT, both sessions CLOSED (8.3). -/
theorem test_hello_after_power_on :
    ((after (.hello .A) (asks .A .hello [] State.reset)).map fun s => s.ports.a.responses) =
      some [{ kind := 0x81, tag := 7,
              payload := [0, 0, 0, 0x91, 0x3E, 0x16, 0x48, 1, 64, 16, 16, 0, 1, 0, 0, 0, 0, 0, 0, 0, 0, 0, 0, 64] }] := by
  decide +kernel

theorem test_ping_reports_the_time :
    ((after (.ping .A) (asks .A .ping [] live)).map fun s => s.ports.a.responses) =
      some [{ kind := 0x84, tag := 7, payload := [0, 0, 0, 0x88, 0x13, 0, 0, 1, 0, 0, 0, 0, 0, 0, 0, 0] }] := by
  decide +kernel

/-- 1.6: the run that began at 1001 is held to its expiry; the counter goes from 17 to 18. -/
theorem test_contact_with_bounce :
    let s := live.putLine 5
      { LineRec.reset with
        config := { LineConfig.reset with counted := .rising }, state := .pending false 1001 20000, lastRaw := some true,
        waiting := some true, edges := 17 }
    ((after (.debounceExpiry 5) s).map fun t => ((t.lines.at 5).state, (t.lines.at 5).edges)) = some (.stable true, 18) := by
  decide +kernel

/-- 1.7: the fourth change in a window of limit 3 freezes the line. -/
theorem test_chattering_contact :
    ((after (.debounceExpiry 12) (due 12 3 3 live)).map fun t => ((t.lines.at 12).state, (t.lines.at 12).chatterCount)) =
      some (.chatter false 24000, 3) := by
  decide +kernel

/-- 2.5, event 2: the UNSENT record of L20 absorbs the change back. -/
theorem test_latest_absorbs_a_pulse :
    absorbChange 3 20 false 5020 [{ stamp := 4990, body := .change 3 20 true none }] =
      some [{ stamp := 4990, body := .change 3 20 false (some (1, 5020)) }] := by
  decide +kernel

/-- 8.2: the updated record moves behind the TIME_MARK and its stamp by the step. -/
theorem test_set_time_under_a_journal :
    absorbChange 1 3 false 799998
        [{ stamp := 11900, body := .change 1 3 true none }, { stamp := 800000, body := .timeMark 12005 800000 }] =
      some [{ stamp := 800000, body := .timeMark 12005 800000 },
        { stamp := 799895, body := .change 1 3 false (some (1, 799998)) }] := by
  decide +kernel

/-- 7.5, event 1: WRITE_OUTPUTS raises the driven level of O6 and verification waits. -/
theorem test_shorted_output_written :
    let s := live.putOutput 6 { Output.reset with state := .owned .A, verify := .ok }
    ((after (.writeOutputs .A) (asks .A .writeOutputs [0x40, 0, 0, 0] s)).map fun t =>
      ((t.outputs.at 6).driven, (t.outputs.at 6).verify)) = some (true, .waiting none) := by
  decide +kernel

/-- 7.5, event 6: L54 falls while O6 drives 1 in OK: a fault, recorded in the owner's journal. -/
theorem test_shorted_output_fault :
    let s := (live.putOutput 6 { Output.reset with state := .owned .A, latch := true, verify := .ok }).putLine 54
      { LineRec.reset with state := .pending true 4990 20000, lastRaw := some false, waiting := some false }
    ((after (.debounceExpiry 54) s).map fun t =>
      ((t.outputs.at 6).fault, (t.outputs.at 6).verify, (t.journals.at .A).unsent)) =
      some (true, .unverified, [{ stamp := 5000, body := .outputFault 6 true false }]) := by
  decide +kernel

/-- 10.5: one notice, encoded. -/
theorem test_notice_encoded :
    let s := ((live.putSession .A { Session.reset with state := .opened { least with window := 8 } 21200 }).putJournal .A
      { inflight := [{ seq := 70, entry := { stamp := 5000, body := .void 4 } },
          { seq := 71, entry := { stamp := 5100, body := .change 2 20 false (some (2, 5160)) } }]
        unsent := [{ stamp := 5200, body := .resyncMark 9 (List.replicate 10 true) }] }).putEngine .A
      { Engine.reset with nextSeq := 72, noticeNumber := 13, goBack := some 70 }
    ((after (.noticeBuild .A) s).map fun t => ((t.engines.at .A).nextSeq, (t.ports.at .A).sending)) =
      some (73, some
        { kind := 0x60, tag := 13,
          payload := [70, 0, 3, 2, 0, 0, 0, 0] ++ [7, 0, 0x88, 0x13, 0, 0, 4] ++
            [1, 1, 0xEC, 0x13, 0, 0, 2, 20, 0, 2, 0x28, 0x14, 0, 0] ++ [4, 0, 0x50, 0x14, 0, 0, 9, 10, 0xFF, 0x03] }) := by
  decide +kernel

/-- 10.6: the arguments of a CONFIG_LINE are checked before the use of its lines. -/
theorem test_config_line_checks_arguments_before_use :
    let s := withSet .A .each .armed live
    let status (debounce : Nat) : Option (List Byte) :=
      let pay := configPayload (fun l => decide (l.val ≤ 1)) 1 0 debounce 0 1000 3
      (after (.configLine .A) (asks .A .configLine pay s)).map fun t => t.ports.a.responses.flatMap fun f => f.payload
    status 251 = some [3, 0, 0] ∧ status 20 = some [6, 0, 0] := by
  decide +kernel

/-- Two characters of a frame on an idle port: SYNC, then LEN 2. -/
theorem test_receiver_begins_a_frame :
    ((after (.characterReceived .A 0x96 .good) (receiving .hunt)).map fun t => t.ports.a.receiver) = some (.length 20040) ∧
      ((after (.characterReceived .A 2 .good) (receiving (.length 20040))).map fun t => t.ports.a.receiver) =
        some (.body 2 [] 20040) := by
  decide +kernel

/-- A CLOSE frame whose check arrives is queued. -/
theorem test_valid_frame_is_queued :
    let check := (crc16 [2, 0x03, 0x07]).toNat
    let s := receiving (.crc 2 [0x03, 0x07] (some (byteOf check)) 20040)
    ((after (.characterReceived .A (byteOf (check / 256)) .good) s).map fun t => t.ports.a.requests) =
      some [frame 0x03 []] := by
  decide +kernel

/-- The straps as a power-on ends give each port its rate. -/
theorem test_power_on_reads_the_straps :
    ((after (.powerOn { a1 := true, a0 := true, b1 := false, b0 := true }) live).map fun t =>
      (t.ports.a.bitRate, t.ports.b.bitRate, t.resetCause, t.resetPeriod)) = some (.r921600, .r230400, .powerOn, none) := by
  decide +kernel

/-- The fourth sample after a reset moves the time count (8.1), and an edge in STABLE waits for its line. -/
theorem test_sample_moves_the_time :
    ((after (.sample 1) { live with now := 20003 }).map fun t => (t.now, t.time, (t.lines.at 0).waiting, (t.lines.at 1).waiting)) =
      some (20004, 5001, some true, none) := by
  decide +kernel

/-- A line takes the sample at which its chatter window ends, and waits no longer. -/
theorem test_window_expiry_takes_the_sample :
    ((after (.chatterWindowExpiry 0) (windowOver (.stable false) false false)).map fun t =>
      ((t.lines.at 0).chatterCount, (t.lines.at 0).windowTimer, (t.lines.at 0).waiting)) = some (0, none, none) := by
  decide +kernel

/-- A RESTART's reset that RSTn joins ends with the pin, once, with cause RESTART. -/
theorem test_restart_joined_by_the_pin :
    let s := live.putPort .A { live.ports.at .A with restartPending := true, sending := some (frame 0x9F [0, 0, 0]) }
    ((after (.restartReset .A .withPin) s).bind (after (.rstnHigh { a1 := false, a0 := false, b1 := false, b0 := false }))).map
      (fun t => (t.resetCause, t.resetCount, t.resetPeriod)) = some (.restart, 1, none) := by
  decide +kernel

/-- A waiting PING in front of the queue runs in the next step. -/
theorem test_step_takes_the_front :
    step { asks .A .ping [] live with pending := [.ping .A, .rstnLow] } =
      exec (.ping .A) { asks .A .ping [] live with pending := [.rstnLow] } := by
  rfl

/-! ### Witnesses: invariants -/

/-- Session A OPEN with an ARMED EACH set of L0 at 0 and L1 at 1, two records INFLIGHT to be sent again, one UNSENT, and a
NOTICE_BUILD waiting; session B LAPSED. -/
def busy : State :=
  let s := (sent (withSet .A .each .armed failed)).putLine 1 { LineRec.reset with state := .stable true }
  { s.putSession .A { Session.reset with state := .opened { least with window := 2 } 21200 } with pending := [.noticeBuild .A] }

/-- The part held in reset by RSTn, with a PING waiting. -/
def held : State := { State.reset with resetPeriod := some .pin, rstnLow := true, pending := [.ping .A] }

theorem busy_set {w : SetId} {ws : WatchSet} (h : busy.sets.at w = some ws) : w = 15 ∧ ws = pair .A .each .armed := by
  have other : ∀ v : SetId, v ≠ 15 → busy.sets.at v = none := by decide +kernel
  have this15 : busy.sets.at 15 = some (pair .A .each .armed) := by decide +kernel
  by_cases hw : w = 15
  · subst hw; rw [this15] at h; exact ⟨rfl, (Option.some.inj h).symm⟩
  · rw [other w hw] at h; nomatch h

theorem witness_a_step_is_taken : (∃ t, step busy = .next t) ∧ ∃ t, step held = .next t := ⟨⟨_, rfl⟩, ⟨_, rfl⟩⟩

theorem witness_EveryStepKeepsTheBounds : busy.poolKept ∧ busy.queuesKept := by
  refine ⟨⟨fun p => ?_, by decide +kernel⟩, fun p => ?_⟩ <;> cases p <;> decide +kernel

theorem witness_EveryStepKeepsTheReset : held.heldInReset ∧ held.resetPeriod ≠ none := by
  refine ⟨fun _ => ⟨.r115200, .r115200, ⟨by decide +kernel, by decide +kernel, by decide +kernel, by decide +kernel,
    fun p => ?_, fun p => ?_⟩, rfl⟩, by decide +kernel⟩ <;> cases p <;> decide +kernel

theorem witness_EveryStepKeepsTheNumbering : busy.numbered := by
  intro p
  cases p
  · refine ⟨by decide +kernel, by decide +kernel, by decide +kernel, fun r hr => ?_⟩
    have : r = 1 := (Option.some.inj (hr.symm.trans (by decide +kernel : (busy.engines.at .A).goBack = some 1)))
    subst this; decide +kernel
  · exact ⟨by decide +kernel, by decide +kernel, by decide +kernel, fun r hr => by
      have := hr.symm.trans (by decide +kernel : (busy.engines.at .B).goBack = none)
      nomatch this⟩

theorem witness_EveryStepKeepsTheOwnership : busy.owned ∧ busy.lostListed := by
  refine ⟨⟨fun w ws h => ?_, fun o => ?_, fun p h => ?_⟩, fun p => ?_⟩
  · obtain ⟨rfl, rfl⟩ := busy_set h; decide +kernel
  · rw [(by decide +kernel : ∀ o, (busy.outputs.at o).state = .free) o]; trivial
  · have : (busy.sessions.at p).state ≠ .closed := by cases p <;> decide +kernel
    exact absurd h this
  · cases p <;> decide +kernel

theorem witness_EveryStepKeepsTheSetsAndRecordsFitted : busy.fitted := by
  refine ⟨fun w ws h => ?_, fun p r hr w hw hv => ?_, fun p => ?_⟩
  · obtain ⟨rfl, rfl⟩ := busy_set h
    refine ⟨by decide, by decide, fun snap hs => ?_, by decide, by decide +kernel⟩
    rw [← Option.some.inj hs]; rfl
  · have hall : ∀ r ∈ (busy.journals.at p).records, r.body.set? = some 15 ∧ p = .A ∧ r.body.levels? = none ∧
        r.body.line?.all fun l => decide (l ∈ (pair .A .each .armed).members) := by cases p <;> decide +kernel
    obtain ⟨h1, rfl, h2, h3⟩ := hall r hr
    obtain rfl : (15 : SetId) = w := Option.some.inj (h1.symm.trans hw)
    refine ⟨pair .A .each .armed, by decide +kernel, rfl, rfl, by decide, fun l hl => ?_, fun n hn => ?_⟩
    · rw [hl] at h3; simpa using h3
    · rw [h2] at hn; nomatch hn
  · have h : (∀ r ∈ (busy.journals.at p).unsent, r.body.isVoid = false ∧ r.body.levels? = none) := by cases p <;> decide +kernel
    refine ⟨fun r hr => (h r hr).1, ?_⟩
    rw [List.pairwise_iff_getElem]
    intro i j hi hj _ w hb
    exact absurd (h _ (List.getElem_mem hj)).2 hb

theorem witness_EveryStepKeepsTheSnapshotLaw : busy.snapshotLaw := by
  intro w ws h _ _
  obtain ⟨rfl, rfl⟩ := busy_set h
  decide +kernel

end Sys2Proof.Tests
end

section
/-! PROOFS. The line commands in general: each one that is due lets its line take the waiting sample, and what a line tells its
neighbours leaves everything else alone (spec/01, 1.3 and 1.4). -/

namespace Sys2Proof.Machine

open Sys2Proof

/-! ### A line command that is due takes the waiting sample -/

/-- RAW_EDGE at a sample that differs from the last (R3). -/
theorem rawEdge_takes {s : State} {l : LineId} {x : Bool} (hr : s.resetPeriod = none)
    (hw : (s.lines.at l).waiting = some x) (hl : (s.lines.at l).lastRaw = some (!x)) :
    exec (.rawEdge l) s = .next (s.takeLine l) := by
  show whenRunning s _ = _
  rw [whenRunning_running hr, if_pos (by simp [LineRec.rawEdgeDue, hw, LineRec.isEdge, hl])]

/-- SETTLE_EXPIRY at a sample that lets the line leave INIT (R5). -/
theorem settleExpiry_takes {s : State} {l : LineId} {x : Bool} {settle : Option Nat} (hr : s.resetPeriod = none)
    (hw : (s.lines.at l).waiting = some x) (hs : (s.lines.at l).state = .init settle)
    (hd : (s.lines.at l).config.debounce = 0 ∨
      ((∃ e, settle = some e ∧ e ≤ s.now) ∧ (s.lines.at l).lastRaw ≠ some (!x))) :
    exec (.settleExpiry l) s = .next (s.takeLine l) := by
  show whenRunning s _ = _
  rw [whenRunning_running hr, if_pos (settle_due hw hs hd)]

/-- DEBOUNCE_EXPIRY at the expiry of a pending period (R8). -/
theorem debounceExpiry_takes {s : State} {l : LineId} {x d : Bool} {stamp : Time} {expiry : Nat}
    (hr : s.resetPeriod = none) (hw : (s.lines.at l).waiting = some x)
    (hs : (s.lines.at l).state = .pending d stamp expiry) (he : expiry ≤ s.now) :
    exec (.debounceExpiry l) s = .next (s.takeLine l) := by
  show whenRunning s _ = _
  rw [whenRunning_running hr, if_pos (by simp [LineRec.debounceDue, hw, hs, he])]

/-- QUIET_EXPIRY at a sample that is no raw edge (R11). -/
theorem quietExpiry_takes {s : State} {l : LineId} {x d : Bool} {quiet : Nat} (hr : s.resetPeriod = none)
    (hw : (s.lines.at l).waiting = some x) (hs : (s.lines.at l).state = .chatter d quiet) (hq : quiet ≤ s.now)
    (hl : (s.lines.at l).lastRaw ≠ some (!x)) : exec (.quietExpiry l) s = .next (s.takeLine l) := by
  show whenRunning s _ = _
  rw [whenRunning_running hr, if_pos (by simp [LineRec.quietDue, hw, hs, hq, LineRec.isEdge, hl])]

/-- CHATTER_WINDOW_EXPIRY at the expiry of the window timer (R9). -/
theorem chatterWindowExpiry_takes {s : State} {l : LineId} {x : Bool} (hr : s.resetPeriod = none)
    (hw : (s.lines.at l).waiting = some x) (ht : ∃ e, (s.lines.at l).windowTimer = some e ∧ e ≤ s.now) :
    exec (.chatterWindowExpiry l) s = .next (s.takeLine l) := by
  show whenRunning s _ = _
  rw [whenRunning_running hr, if_pos (by simp [LineRec.windowDue, hw, (expired_window_iff _ _).mpr ht])]

/-! ### What a line makes of a sample that raises no event -/

/-- A raw edge in CHATTER restarts the quiet timer (R11). -/
theorem take_chatter_edge {r : LineRec} {now : Nat} {time : Time} {x d : Bool} {quiet : Nat}
    (hs : r.state = .chatter d quiet) (hl : r.lastRaw = some (!x)) :
    r.take now time x = ((r.expireWindow now).left x (.chatter d (now + 4 * r.config.chatterWindow)), none) := by
  simp [LineRec.take, hs, LineRec.takeChatter, (isEdge_iff r x).mpr hl, LineRec.left, Config.samplesPerMs]

/-- A raw edge in INIT restarts the settle timer (R5). -/
theorem take_init_edge {r : LineRec} {now : Nat} {time : Time} {x : Bool} {settle : Option Nat}
    (hs : r.state = .init settle) (hl : r.lastRaw = some (!x)) (hd : r.config.debounce ≠ 0) :
    r.take now time x = ((r.expireWindow now).left x (.init (some (now + 4 * r.config.debounce))), none) := by
  cases settle <;>
    simp [LineRec.take, hs, LineRec.takeInit, hd, (isEdge_iff r x).mpr hl, LineRec.left, Config.samplesPerMs]

/-- A sample away from D in STABLE begins a pending period (R6). -/
theorem take_stable_departs {r : LineRec} {now : Nat} {time : Time} {x d : Bool} (hs : r.state = .stable d)
    (hx : (x ^^ r.config.invert) ≠ d) (hd : r.config.debounce ≠ 0) :
    r.take now time x = ((r.expireWindow now).left x (.pending d time (now + 4 * r.config.debounce)), some .began) := by
  have hin : r.input x ≠ d := hx
  simp [LineRec.take, hs, LineRec.takeStable, hin, hd, LineRec.left, Config.samplesPerMs]

/-- A sample at D in STABLE is taken and no more (R6). -/
theorem take_stable_stays {r : LineRec} {now : Nat} {time : Time} {x d : Bool} (hs : r.state = .stable d)
    (hx : (x ^^ r.config.invert) = d) :
    r.take now time x = ((r.expireWindow now).left x (.stable d), none) := by
  have hin : r.input x = d := hx
  simp [LineRec.take, hs, LineRec.takeStable, hin, LineRec.left]

/-- A sample away from D before the debounce expiry is taken and no more (R8). -/
theorem take_pending_stays {r : LineRec} {now : Nat} {time : Time} {x d : Bool} {stamp : Time} {expiry : Nat}
    (hs : r.state = .pending d stamp expiry) (hx : (x ^^ r.config.invert) = !d) (he : now < expiry) :
    r.take now time x = ((r.expireWindow now).left x (.pending d stamp expiry), none) := by
  have hin : r.input x ≠ d := by simp [LineRec.input, hx]
  simp [LineRec.take, hs, LineRec.takePending, hin, Nat.not_le.mpr he, LineRec.left]

/-- At the expiry of the window the count is 0 and the timer stopped (R9). -/
theorem expireWindow_expired {r : LineRec} {now last : Nat} (ht : r.windowTimer = some last) (he : last ≤ now) :
    r.expireWindow now = { r with chatterCount := 0, windowTimer := none } := by
  simp [LineRec.expireWindow, expired, ht, he]

/-! ### What the telling of news changes -/

/-- News of a field line that no set follows is heard by nobody (R15, R17). -/
theorem tell_field {s : State} {l : LineId} {n : LineNews} (hl : l.val < 48)
    (hn : s.unfollowed l ∨ ∀ e, n ≠ .event e) (r : LineRec) :
    (s.putLine l r).tell l n = { s with lines := s.lines.put l r, choice := s.choice + 1 } := by
  have hh : s.hearers l n = (l.sensed.map Hearer.output).toList := by
    by_cases hev : ∃ e, n = .event e
    · obtain ⟨e, rfl⟩ := hev
      exact hearers_unfollowed (hn.resolve_right fun h => h e rfl) e
    · exact hearers_unset s l n fun e he => hev ⟨e, he⟩
  rw [tell_none (by rw [putLine_hearers, hh, sensed_none hl]; rfl)]
  rfl

/-- The frame of a line's record and the count of free orders. -/
theorem putLine_order_only (s : State) (l : LineId) (r : LineRec) :
    s.changesOnly [.lines, .orders] { s with lines := s.lines.put l r, choice := s.choice + 1 } := by
  rw [co_iff]; simp [Block.same]

/-- An event of a line touches its own record alone among the lines, and, for a field line that no set follows, nothing
else (R15). -/
theorem told_event_frame (s : State) (l : LineId) (r : LineRec) (e : LineEvent) :
    ((s.putLine l r).tell l (.event e)).lines = s.lines.put l r ∧
    s.changesOnly [.lines, .sets, .outputs, .sessions, .journals, .engines, .orders] ((s.putLine l r).tell l (.event e)) ∧
    (l.val < 48 → s.unfollowed l → s.changesOnly [.lines, .orders] ((s.putLine l r).tell l (.event e))) := by
  refine ⟨tell_lines .., ?_, fun hl hu => ?_⟩
  · exact changesOnly_trans (changesOnly_mono (putLine_only s l r) (by simp))
      (changesOnly_mono (tell_only _ _ _) (by simp [hearBlocks]))
  · rw [tell_field hl (Or.inl hu)]
    exact putLine_order_only s l r

/-- News that is no event leaves the sets alone, and of a field line nothing but the line changes (R17). -/
theorem told_calm_frame (s : State) (l : LineId) (r : LineRec) {n : LineNews} (hn : ∀ e, n ≠ .event e) :
    ((s.putLine l r).tell l n).lines = s.lines.put l r ∧
    s.changesOnly [.lines, .outputs, .sessions, .journals, .engines, .orders] ((s.putLine l r).tell l n) ∧
    (l.val < 48 → (s.putLine l r).tell l n = { s with lines := s.lines.put l r, choice := s.choice + 1 }) := by
  refine ⟨tell_lines .., ?_, fun hl => tell_field hl (Or.inr hn) r⟩
  exact changesOnly_trans (changesOnly_mono (putLine_only s l r) (by simp))
    (changesOnly_mono (tell_unset_only (hearers_unset _ l n hn)) (by simp [outputBlocks]))

/-! ### The commands that raise an event -/

/-- DEBOUNCE_EXPIRY of a due change that passes the chatter check raises it (R8). -/
theorem raises_change {s : State} {l : LineId} {d : Bool} {stamp : Time} {expiry : Nat} {x : Bool}
    (hr : s.resetPeriod = none) (h : (s.lines.at l).changeDue s.now d stamp expiry x) :
    s.raises l (.debounceExpiry l) (.change (!d) stamp) ((s.lines.at l).changed s.now d x) := by
  obtain ⟨hw, hs, he, hx, hp⟩ := h
  refine ⟨hr, x, hw, Or.inl ⟨d, stamp, Or.inl ⟨rfl, expiry, by simpa using hs, he⟩, by simpa using hx,
    Or.inl ⟨?_, rfl, rfl⟩⟩⟩
  simpa using hp

/-- DEBOUNCE_EXPIRY of a due change past the chatter limit freezes the line (R10). -/
theorem raises_freeze {s : State} {l : LineId} {d : Bool} {stamp : Time} {expiry : Nat} {x : Bool}
    (hr : s.resetPeriod = none) (hw : (s.lines.at l).waiting = some x)
    (hs : (s.lines.at l).state = .pending d stamp expiry) (he : expiry ≤ s.now)
    (hx : (x ^^ (s.lines.at l).config.invert) = !d) (h0 : (s.lines.at l).config.chatterLimit ≠ 0)
    (hc : (s.lines.at l).config.chatterLimit < ((s.lines.at l).expireWindow s.now).chatterCount + 1) :
    s.raises l (.debounceExpiry l) (.chatterStart d s.time) ((s.lines.at l).frozen s.now d x) := by
  refine ⟨hr, x, hw, Or.inl ⟨d, stamp, Or.inl ⟨rfl, expiry, by simpa using hs, he⟩, by simpa using hx,
    Or.inr ⟨?_, rfl, rfl⟩⟩⟩
  simp only [expireWindow_config]
  omega

/-- QUIET_EXPIRY ends the chatter (R12). -/
theorem raises_calm {s : State} {l : LineId} {d x : Bool} {quiet : Nat} (hr : s.resetPeriod = none)
    (hw : (s.lines.at l).waiting = some x) (hs : (s.lines.at l).state = .chatter d quiet) (hq : quiet ≤ s.now)
    (hl : (s.lines.at l).lastRaw ≠ some (!x)) :
    s.raises l (.quietExpiry l)
      (.chatterEnd (x ^^ (s.lines.at l).config.invert) s.time (decide ((x ^^ (s.lines.at l).config.invert) ≠ d)))
      ((s.lines.at l).calmed s.now d x) := by
  refine ⟨hr, x, hw, Or.inr ⟨d, quiet, rfl, by simpa using hs, hq, by simpa using hl, by simp, rfl⟩⟩

/-- RAW_EDGE away from D without debounce raises the change, or freezes the line past the chatter limit (R6, R8, R10). -/
theorem raises_edge {s : State} {l : LineId} {d x : Bool} (hr : s.resetPeriod = none)
    (hw : (s.lines.at l).waiting = some x) (hs : (s.lines.at l).state = .stable d)
    (hd : (s.lines.at l).config.debounce = 0) (hl : (s.lines.at l).lastRaw = some (!x))
    (hx : (x ^^ (s.lines.at l).config.invert) = !d) :
    let passes := (s.lines.at l).config.chatterLimit = 0 ∨
      ((s.lines.at l).expireWindow s.now).chatterCount + 1 ≤ (s.lines.at l).config.chatterLimit
    (passes → s.raises l (.rawEdge l) (.change (!d) s.time) ((s.lines.at l).changed s.now d x)) ∧
    (¬ passes → s.raises l (.rawEdge l) (.chatterStart d s.time) ((s.lines.at l).frozen s.now d x)) := by
  have edge : ∀ e after, _ → s.raises l (.rawEdge l) e after := fun e after h =>
    ⟨hr, x, hw, Or.inl ⟨d, s.time, Or.inr ⟨rfl, by simpa using hs, by simpa using hd, by simpa using hl, rfl⟩,
      by simpa using hx, h⟩⟩
  exact ⟨fun hp => edge _ _ (Or.inl ⟨by simpa using hp, rfl, rfl⟩),
    fun hp => edge _ _ (Or.inr ⟨by simpa using hp, rfl, rfl⟩)⟩

/-- Whatever raises an event leaves the line with its new record and changes nothing but the line and what hears of it; a
field line that no set follows is heard by nobody (R15). -/
theorem raises_frame {s : State} {l : LineId} {c : Instr} {e : LineEvent} {after : LineRec} (h : s.raises l c e after) :
    ∃ t, exec c s = .next t ∧ t.lines = s.lines.put l after ∧
      s.changesOnly [.lines, .sets, .outputs, .sessions, .journals, .engines, .orders] t ∧
      (l.val < 48 → s.unfollowed l → s.changesOnly [.lines, .orders] t) :=
  ⟨_, raises_step h, told_event_frame s l after e⟩

/-- The one set that follows a field line hears its event (R15, R26). -/
theorem raises_followed {s : State} {l : LineId} {c : Instr} {e : LineEvent} {after : LineRec} {w : SetId} {ws : WatchSet}
    (h : s.raises l c e after) (hl : l.val < 48) (hf : s.followedBy l w ws) :
    exec c s = .next (({ s with lines := s.lines.put l after, choice := s.choice + 1 } : State).hearSet w l e) := by
  rw [raises_step h, tell_followed hf hl]
  rfl

end Sys2Proof.Machine
end

section
/-! PROOFS. The line events: RAW_EDGE, SETTLE_EXPIRY, DEBOUNCE_EXPIRY, QUIET_EXPIRY and CHATTER_WINDOW_EXPIRY (spec/01, 1.3), what
SUMMARY sets make of them (spec/02, 2.2) and who hears of them (R15). -/

namespace Sys2Proof.Machine

open Sys2Proof

/-! ### RAW_EDGE -/

/-- The beginning of a pending period moves no output (R17). -/
theorem hearOutput_began (s : State) (o : OutId) : s.hearOutput o .began = s := by
  unfold State.hearOutput
  cases (s.outputs.at o).verify <;> rfl

/-- The beginning of a pending period only uses up an order (R17; log 6). -/
theorem tell_began (s : State) (l : LineId) : s.tell l .began = { s with choice := s.choice + 1 } := by
  have hh := hearers_unset s l .began (by simp)
  rcases hs : l.sensed with _ | o
  · exact tell_none (by rw [hh, hs]; rfl)
  · rw [tell_one (x := .output o) (by rw [hh, hs]; rfl)]
    exact hearOutput_began _ o

/-- A raw edge that begins or restarts a timer changes nothing but the line (R5, R6, R11). -/
theorem rawEdge_restarts {s : State} {l : LineId} {x : Bool} (hr : s.resetPeriod = none)
    (hw : (s.lines.at l).waiting = some x) (hl : (s.lines.at l).lastRaw = some (!x)) :
    let r := (s.lines.at l).expireWindow s.now
    (∀ d quiet, r.state = .chatter d quiet → exec (.rawEdge l) s = .next
      { s with lines := s.lines.put l (r.left x (.chatter d (s.now + 4 * r.config.chatterWindow))) }) ∧
    (r.config.debounce ≠ 0 →
      (∀ settle, r.state = .init settle → exec (.rawEdge l) s = .next
        { s with lines := s.lines.put l (r.left x (.init (some (s.now + 4 * r.config.debounce)))) }) ∧
      ∀ d, r.state = .stable d → (x ^^ r.config.invert) ≠ d → exec (.rawEdge l) s = .next
        { s with
          lines := s.lines.put l (r.left x (.pending d s.time (s.now + 4 * r.config.debounce)))
          choice := s.choice + 1 }) := by
  dsimp only
  rw [rawEdge_takes hr hw hl]
  simp only [expireWindow_state, expireWindow_config]
  refine ⟨fun d quiet hs => ?_, fun hd => ⟨fun settle hs => ?_, fun d hs hx => ?_⟩⟩
  · rw [takeLine_none hw (take_chatter_edge hs hl)]; rfl
  · rw [takeLine_none hw (take_init_edge hs hl hd)]; rfl
  · rw [takeLine_some hw (take_stable_departs hs hx hd), tell_began]; rfl

/-- The one EACH set that follows a field line asks for the record of its event (R27). -/
theorem raises_each {s : State} {l : LineId} {c : Instr} {e : LineEvent} {after : LineRec} {w : SetId} {ws : WatchSet}
    (h : s.raises l c e after) (hl : l.val < 48) (hf : s.followedBy l w ws) (hm : ws.mode = .each) :
    exec c s = .next
      (({ s with lines := s.lines.put l after, choice := s.choice + 1 } : State).admitForSet w ws (e.record w l)) := by
  rw [raises_followed h hl hf]
  exact congrArg _ (hearSet_each hf hm { s with lines := s.lines.put l after, choice := s.choice + 1 } rfl e)

/-- Without debounce a raw edge in STABLE away from D is a due change, stamped with the time count (R6, R8, R10, R27). -/
theorem rawEdge_acts {s : State} {l : LineId} {x d : Bool} (hr : s.resetPeriod = none)
    (hw : (s.lines.at l).waiting = some x) (hl : (s.lines.at l).lastRaw = some (!x))
    (hd : (s.lines.at l).config.debounce = 0) (hs : (s.lines.at l).state = .stable d)
    (hx : (x ^^ (s.lines.at l).config.invert) ≠ d) :
    let passes := (s.lines.at l).config.chatterLimit = 0 ∨
      ((s.lines.at l).expireWindow s.now).chatterCount + 1 ≤ (s.lines.at l).config.chatterLimit
    ∃ t, exec (.rawEdge l) s = .next t ∧
      (passes → t.lines = s.lines.put l ((s.lines.at l).changed s.now d x)) ∧
      (¬ passes → t.lines = s.lines.put l ((s.lines.at l).frozen s.now d x)) ∧
      s.changesOnly [.lines, .sets, .outputs, .sessions, .journals, .engines, .orders] t ∧
      (l.val < 48 → s.unfollowed l → s.changesOnly [.lines, .orders] t) ∧
      ∀ w ws, l.val < 48 → s.followedBy l w ws → ws.mode = .each → passes →
        ({ s with lines := t.lines, choice := s.choice + 1 } : State).recordAsked w ws
          { stamp := s.time, body := .change w l (!d) none } t := by
  intro passes
  obtain ⟨applied, froze⟩ := raises_edge hr hw hs hd hl (Bool.eq_not_of_ne hx)
  by_cases hp : passes
  · obtain ⟨t, ht, hlines, honly, hfield⟩ := raises_frame (applied hp)
    refine ⟨t, ht, fun _ => hlines, fun hn => absurd hp hn, honly, hfield, fun w ws hf hfol hm _ => ?_⟩
    have htold := Host.Outcome.next.inj (ht.symm.trans (raises_each (applied hp) hf hfol hm))
    rw [hlines, htold]
    exact admitForSet_asked ..
  · obtain ⟨t, ht, hlines, honly, hfield⟩ := raises_frame (froze hp)
    exact ⟨t, ht, fun h => absurd h hp, fun _ => hlines, honly, hfield, fun _ _ _ _ _ h => absurd h hp⟩

/-- The taking of a sample at D in PENDING abandons the period (R7, R8, R13). -/
theorem takeLine_abandons {s : State} {l : LineId} {x d : Bool} {stamp : Time} {expiry : Nat}
    (hw : (s.lines.at l).waiting = some x) (hs : (s.lines.at l).state = .pending d stamp expiry)
    (hx : (x ^^ (s.lines.at l).config.invert) = d) :
    s.takeLine l = (s.putLine l (((s.lines.at l).expireWindow s.now).left x (.stable d))).tell l (.abandoned d) :=
  takeLine_some hw (take_abandon hs hx)

/-- Settles O36: a raw edge by the line's state, with debounce and without, and the two commands that may find a pending period
abandoned. -/
theorem aRawEdgeStartsTimers : Obligations.ARawEdgeStartsTimers := by
  refine ⟨fun s l x hr hw hl => rawEdge_restarts hr hw hl, fun s l x hr hw hl hd => ?_,
    fun s l x d stamp expiry hr hw hs hx => ?_⟩
  · simp only [expireWindow_state, expireWindow_config]
    refine ⟨fun settle hs => ?_, fun d hs hx => rawEdge_acts hr hw hl hd hs hx⟩
    rw [rawEdge_takes hr hw hl, settleExpiry_takes hr hw hs (Or.inl hd)]
  · have frame := told_calm_frame s l (((s.lines.at l).expireWindow s.now).left x (.stable d))
      (n := .abandoned d) (by simp)
    rw [← takeLine_abandons hw hs hx] at frame
    exact ⟨fun hl => ⟨_, rawEdge_takes hr hw hl, frame⟩, fun he => ⟨_, debounceExpiry_takes hr hw hs he, frame⟩⟩

/-! ### SETTLE_EXPIRY, DEBOUNCE_EXPIRY and QUIET_EXPIRY -/

/-- Settles O37: the line leaves INIT with news that is no event. -/
theorem theSettleExpiryEstablishesD : Obligations.TheSettleExpiryEstablishesD := by
  intro s l x settle hr hw hs hd
  have frame := told_calm_frame s l
    (((s.lines.at l).expireWindow s.now).left x (.stable (x ^^ (s.lines.at l).config.invert)))
    (n := .settled (x ^^ (s.lines.at l).config.invert)) (by simp)
  rw [← takeLine_some hw (take_settle hs hd)] at frame
  obtain ⟨hlines, honly, hfield⟩ := frame
  simp only [expireWindow_config]
  refine ⟨_, settleExpiry_takes hr hw hs hd, hlines, honly, fun hl => ?_⟩
  rw [hfield hl]
  exact putLine_order_only s l _

/-- The edge counter stays at its greatest value (R16). -/
theorem countEdge_saturates (level : Bool) (n : Nat) (hn : n ≤ 4294967295) :
    let one := if n = 4294967295 then 4294967295 else n + 1
    countEdge .none level n = n ∧ countEdge .both level n = one ∧
      countEdge .rising level n = (if level then one else n) ∧
      countEdge .falling level n = (if level then n else one) := by
  have hone : min 4294967295 (n + 1) = if n = 4294967295 then 4294967295 else n + 1 := by split <;> omega
  simp only [countEdge, hone, and_self]

/-- Settles O38: a due change is raised as a change or as a chatter-start, and the counter saturates. -/
theorem theDebounceExpiryDecides : Obligations.TheDebounceExpiryDecides := by
  refine ⟨fun s l d stamp expiry x hr h => raises_frame (raises_change hr h), countEdge_saturates, ?_⟩
  intro s l d x stamp expiry hr
  simp only [expireWindow_state, expireWindow_config]
  intro hw hs he hx h0 hc
  exact raises_frame (raises_freeze hr hw hs he hx h0 hc)

/-! ### CHATTER_WINDOW_EXPIRY -/

/-- The taking of a sample that raises nothing, at the expiry of the window (R9). -/
theorem chatterWindowExpiry_quiet {s : State} {l : LineId} {x : Bool} {last : Nat} {state : LineState}
    (hr : s.resetPeriod = none) (hw : (s.lines.at l).waiting = some x)
    (ht : (s.lines.at l).windowTimer = some last) (he : last ≤ s.now)
    (hq : (s.lines.at l).take s.now s.time x = (((s.lines.at l).expireWindow s.now).left x state, none)) :
    exec (.chatterWindowExpiry l) s = .next
      { s with
        lines := s.lines.put l { (s.lines.at l).left x state with chatterCount := 0, windowTimer := none } } := by
  rw [expireWindow_expired ht he] at hq
  rw [chatterWindowExpiry_takes hr hw ⟨last, ht, he⟩, takeLine_none hw hq]
  rfl

/-- Settles O39: QUIET_EXPIRY raises the chatter-end, and CHATTER_WINDOW_EXPIRY is whatever event its sample is. -/
theorem theQuietExpiryEndsTheChatter : Obligations.TheQuietExpiryEndsTheChatter := by
  constructor
  · intro s l d x quiet hr
    simp only [expireWindow_state, expireWindow_lastRaw]
    intro hw hs hq hl
    exact raises_frame (raises_calm hr hw hs hq hl)
  · intro s l x d last hr r level hw ht he
    have takes := chatterWindowExpiry_takes hr hw ⟨last, ht, he⟩
    refine ⟨fun hs hx => chatterWindowExpiry_quiet hr hw ht he (take_stable_stays hs hx),
      fun stamp expiry hs hx hn => chatterWindowExpiry_quiet hr hw ht he (take_pending_stays hs hx hn),
      fun hl => ?_, fun stamp expiry hs hn => ?_⟩
    · rw [takes, rawEdge_takes hr hw hl]
    · rw [takes, debounceExpiry_takes hr hw hs hn]

/-! ### Who hears of an event -/

/-- Settles O60: an event is told to its hearers, each once, in the order taken. -/
theorem anEventReachesEveryFollower : Obligations.AnEventReachesEveryFollower := by
  intro s l c e after h
  obtain ⟨order, hnodup, hsets, houts, htell⟩ := tell_order (s.putLine l after) l e
  exact ⟨order, hnodup, hsets, houts, (raises_step h).trans (congrArg Host.Outcome.next htell)⟩

/-! ### SUMMARY sets -/

/-- The members do not agree any longer once the D of one of them has moved away from the agreed level (R32). -/
theorem disagree_of_moved {ms : List LineId} {l : LineId} (hl : l ∈ ms) {f g : LineId → Option Bool} {levels : List Bool}
    (hf : ms.map f = levels.map some) (hg : g l ≠ f l) : ms.map g ≠ levels.map some := by
  intro h
  exact hg (List.map_inj_left.mp (h.trans hf.symm) l hl)

/-- The one SUMMARY set that follows a field line raises its attention at an event that moves D away from an agreed level, and
does nothing at any other (R32). -/
theorem raises_summary {s : State} {l : LineId} {c : Instr} {e : LineEvent} {after : LineRec} {w : SetId} {ws : WatchSet}
    {levels : List Bool} (h : s.raises l c e after) (hl : l.val < 48) (hf : s.followedBy l w ws)
    (hm : ws.mode = .summary) (hsnap : ws.snapshot = some levels) (hlen : levels.length = ws.members.length)
    (hbefore : s.level l = some e.before) :
    let base : State := { s with lines := s.lines.put l after, choice := s.choice + 1 }
    let raised := ws.members.map s.level = levels.map some ∧ after.state.level ≠ some e.before
    (raised → exec c s = .next (base.attended w ws)) ∧ (¬ raised → exec c s = .next base) := by
  intro base raised
  have ⟨_, _, hmem, _⟩ := hf
  have hlevel : base.level = fun m => if m = l then after.state.level else s.level m := level_put s l after
  have hold : (fun m => if m = l then some e.before else base.level m) = s.level := by
    funext m
    by_cases hml : m = l
    · subst hml; simp [hbefore]
    · simp [hlevel, hml]
  have hraised : raised ↔ (ws.members.map fun m => if m = l then some e.before else base.level m) = levels.map some ∧
      ws.members.map base.level ≠ levels.map some := by
    rw [hold]
    refine and_congr_right fun hagreed => ⟨fun hmoved => ?_, fun hdis hsame => ?_⟩
    · exact disagree_of_moved hmem hagreed (by simpa [hlevel, hbefore] using hmoved)
    · refine hdis (hagreed ▸ congrArg (ws.members.map ·) ?_)
      rw [hlevel, hsame, ← hold]
      funext m
      by_cases hml : m = l <;> simp [hml, hlevel]
  obtain ⟨attend, stay⟩ := hearSummary_attended (s := base) (w := w) (l := l) hsnap hlen e
  rw [raises_followed h hl hf, hearSet_summary hf hm base rfl]
  exact ⟨fun hr => congrArg _ (attend (hraised.mp hr)), fun hr => congrArg _ (stay fun hc => hr (hraised.mpr hc))⟩

/-- Settles O42: the SUMMARY set that follows a field line, and any SUMMARY set that hears an event. -/
theorem aSummarySetRaisesAttention : Obligations.ASummarySetRaisesAttention := by
  constructor
  · intro s l d x w ws levels hr hl hf hm hsnap hlen _
    refine ⟨fun stamp expiry h => ?_, fun quiet hw hs hq hraw => ?_⟩
    · have hbefore : s.level l = some (LineEvent.change (!d) stamp).before := by
        simp [State.level, h.2.1, LineState.level, LineEvent.before]
      obtain ⟨attend, stay⟩ := raises_summary (raises_change hr h) hl hf hm hsnap hlen hbefore
      refine ⟨fun ha => attend ⟨ha, ?_⟩, fun ha => stay fun hc => ha hc.1⟩
      simp [LineRec.changed, LineState.level, LineEvent.before]
    · have hbefore : s.level l = some (LineEvent.chatterEnd (x ^^ (s.lines.at l).config.invert) s.time
          (decide ((x ^^ (s.lines.at l).config.invert) ≠ d))).before := by
        simp only [State.level, hs, LineState.level, LineEvent.before]
        cases x ^^ (s.lines.at l).config.invert <;> cases d <;> rfl
      obtain ⟨attend, stay⟩ := raises_summary (raises_calm hr hw hs hq hraw) hl hf hm hsnap hlen hbefore
      have hmoves : ((s.lines.at l).calmed s.now d x).state.level ≠ s.level l ↔
          (x ^^ (s.lines.at l).config.invert) ≠ d := by
        simp [LineRec.calmed, LineRec.left, State.level, hs, LineState.level]
      rw [hbefore] at hmoves
      exact ⟨fun h => attend ⟨h.1, hmoves.mpr h.2⟩, fun h => stay fun hc => h ⟨hc.1, hmoves.mp hc.2⟩⟩
  · intro s l w ws levels level changed stamp hset hphase hmem hm hsnap hlen
    have told : ∀ e : LineEvent, State.hear l (.event e) s (.set w) = s.hearSummary w ws l e := fun e => by
      show s.hearSet w l e = _
      rw [hearSet_armed hset hphase hmem, hm]
    simp only [told]
    refine ⟨hearSummary_attended hsnap hlen (.change level stamp), ?_,
      hearSummary_attended hsnap hlen (.chatterStart level stamp)⟩
    have hbefore : (if changed then !level else level) = (LineEvent.chatterEnd level stamp changed).before := by
      cases changed <;> cases level <;> rfl
    rw [hbefore]
    exact hearSummary_attended hsnap hlen _

end Sys2Proof.Machine
end

section
/-! PROOFS. The readback lines: VERIFY_EXPIRY and what an output makes of the news of its line (spec/07, 7.4). -/

namespace Sys2Proof.Machine

open Sys2Proof

/-- VERIFY_EXPIRY outside a reset. -/
theorem verifyExpiry_takes {s : State} (hr : s.resetPeriod = none) (o : OutId) :
    exec (.verifyExpiry o) s = .next (s.verifyOutput o) := whenRunning_running hr _

/-- The expiry of the verify timer examines the readback line (R139). -/
theorem verifyOutput_due {s : State} {o : OutId} {expiry : Nat} (hv : (s.outputs.at o).verify = .waiting (some expiry))
    (he : expiry ≤ s.now) : s.verifyOutput o = match (s.lines.at o.readback).state with
      | .stable d => s.judged o d
      | .pending _ _ _ => s.putOutput o { s.outputs.at o with verify := .deferred }
      | .init _ | .chatter _ _ | .disabled _ => s.unjudged o := by
  have hdue : (s.outputs.at o).verifyDue s.now = true := by simp [Output.verifyDue, hv, expired, he]
  unfold State.verifyOutput
  rw [if_pos hdue]
  cases (s.lines.at o.readback).state with
  | stable d => exact judgeOutput_eq s o d
  | pending d stamp e => rfl
  | init settle => rfl
  | chatter d quiet => rfl
  | disabled d => rfl

/-- The leaving of INIT is judged in UNVERIFIED alone (R141). -/
theorem hearOutput_settled (s : State) (o : OutId) (d : Bool) :
    s.hearOutput o (.settled d) = if (s.outputs.at o).verify = .unverified then s.judged o d else s := by
  unfold State.hearOutput
  cases (s.outputs.at o).verify with
  | unverified => exact judgeOutput_eq s o d
  | off => rfl
  | waiting expiry => rfl
  | deferred => rfl
  | ok => rfl

/-- The abandoning of a pending period is judged in DEFERRED alone (R140). -/
theorem hearOutput_abandoned (s : State) (o : OutId) (d : Bool) :
    s.hearOutput o (.abandoned d) = if (s.outputs.at o).verify = .deferred then s.judged o d else s := by
  unfold State.hearOutput
  cases (s.outputs.at o).verify with
  | deferred => exact judgeOutput_eq s o d
  | off => rfl
  | waiting expiry => rfl
  | ok => rfl
  | unverified => rfl

/-- News of a readback line that no set hears is its output's alone (R15, R17). -/
theorem tell_readback {s : State} {o : OutId} {n : LineNews} (hn : s.unfollowed o.readback ∨ ∀ e, n ≠ .event e)
    (r : LineRec) : (s.putLine o.readback r).tell o.readback n =
      ({ s with lines := s.lines.put o.readback r, choice := s.choice + 1 } : State).hearOutput o n := by
  have hh : s.hearers o.readback n = [.output o] := by
    by_cases hev : ∃ e, n = .event e
    · obtain ⟨e, rfl⟩ := hev
      rw [hearers_unfollowed (hn.resolve_right fun h => h e rfl), sensed_readback]
      rfl
    · exact hearers_calm s o n fun e he => hev ⟨e, he⟩
  rw [tell_one (x := .output o) ((putLine_hearers ..).trans hh)]
  rfl

/-- Settles O47: the timer's expiry, the news of a readback line that no set hears, and the output as one hearer of several. -/
theorem theReadbackIsJudged : Obligations.TheReadbackIsJudged := by
  refine ⟨fun o s expiry hr hv he => ?_, fun s o x hr => ?_, fun s o e => hearOutput_event s o e⟩
  · rw [verifyExpiry_takes hr, verifyOutput_due hv he]
    cases (s.lines.at o.readback).state <;> rfl
  · simp only [expireWindow_state, expireWindow_config, expireWindow_lastRaw]
    refine fun hw => ⟨fun settle hs hd => ?_, fun d stamp expiry hs hx => ?_, fun hu c e after h => ?_⟩
    · rw [settleExpiry_takes hr hw hs hd, takeLine_some hw (take_settle hs hd), tell_readback (Or.inr (by simp)),
        hearOutput_settled]
    · have taken : s.takeLine o.readback = _ :=
        (takeLine_abandons hw hs hx).trans ((tell_readback (Or.inr (by simp)) _).trans (hearOutput_abandoned _ o d))
      rw [hx]
      exact ⟨fun hl => (rawEdge_takes hr hw hl).trans (congrArg _ taken),
        fun he => (debounceExpiry_takes hr hw hs he).trans (congrArg _ taken)⟩
    · rw [raises_step h, tell_readback (Or.inl hu), hearOutput_event]

end Sys2Proof.Machine
end

section
/-! PROOFS. SAMPLE: which events are due, that each is taken as its own command takes it, and what the sample itself writes
(spec/01, R3 to R5; spec/08, R145). -/

namespace Sys2Proof.Machine

open Sys2Proof

/-! ### When each kind of event is due -/

/-- The verify timer runs in WAITING alone (R138). -/
theorem verifyDue_iff (now : Nat) (o : Output) :
    o.verifyDue now = true ↔ ∃ e, o.verify = .waiting (some e) ∧ e ≤ now := by
  unfold Output.verifyDue
  cases o.verify <;> simp [expired_iff]

/-- The grace timer runs in GRACE alone (R130). -/
theorem graceDue_iff (now : Nat) (o : Output) : o.graceDue now = true ↔ ∃ p e, o.state = .grace p e ∧ e ≤ now := by
  unfold Output.graceDue
  cases o.state <;> simp

/-- The silence timer runs in OPEN alone (R103). -/
theorem silenceDue_iff (now : Nat) (st : SessState) :
    st.silenceDue now = true ↔ ∃ prm e, st = .opened prm e ∧ e ≤ now := by
  unfold SessState.silenceDue
  cases st <;> simp

/-- The retain timer runs in LAPSED alone (R106). -/
theorem retainDue_iff (now : Nat) (st : SessState) :
    st.retainDue now = true ↔ ∃ prm why e, st = .lapsed prm why e ∧ e ≤ now := by
  unfold SessState.retainDue
  cases st <;> simp

/-- The gap timer runs in every receiver state but HUNT (R162). -/
theorem gapDue_iff (now : Nat) (r : Receiver) : r.gapDue now = true ↔ ∃ g, g ≤ now ∧ (r = .length g ∨
    (∃ len got, r = .body len got g) ∨ ∃ len got low, r = .crc len got low g) := by
  unfold Receiver.gapDue
  cases r <;> simp

/-! ### The list of due events -/

/-- The events of one port that a sample can make due, each once. -/
def everyDueAt (p : Port) : List Due := [Due.retransmit p, Due.silence p, Due.retain p, Due.gap p]

/-- Every event that a sample can make due, each once. -/
def everyDue : List Due :=
  (List.finRange 64).map Due.line ++ (List.finRange 16).map Due.verify ++ (List.finRange 16).map Due.grace ++
    everyDueAt Port.A ++ everyDueAt Port.B

theorem everyDue_nodup : everyDue.Nodup := by
  have lines : ((List.finRange 64).map Due.line).Nodup := (List.nodup_finRange 64).map fun a b h => by injection h
  have verifies : ((List.finRange 16).map Due.verify).Nodup := (List.nodup_finRange 16).map fun a b h => by injection h
  have graces : ((List.finRange 16).map Due.grace).Nodup := (List.nodup_finRange 16).map fun a b h => by injection h
  have ports : (everyDueAt Port.A ++ everyDueAt Port.B).Nodup := by decide
  rw [everyDue, List.append_assoc _ (everyDueAt Port.A), List.append_assoc, List.append_assoc]
  refine lines.append (verifies.append (graces.append ports ?_) ?_) ?_ <;>
    simp [everyDueAt, List.Disjoint]

/-- The due events of a port stand in a fixed order. -/
theorem dueAt_sublist (s : State) (p : Port) : (s.dueAt p).Sublist (everyDueAt p) := by
  have one : ∀ (b : Bool) (x : Due), (if b = true then [x] else []).Sublist [x] := by
    intro b x; cases b <;> simp
  exact (((one _ _).append (one _ _)).append (one _ _)).append (one _ _)

/-- The due events are some of those that can be. -/
theorem due_sublist (s : State) : s.due.Sublist everyDue :=
  ((((List.filter_sublist.map _).append (List.filter_sublist.map _)).append (List.filter_sublist.map _)).append
    (dueAt_sublist s .A)).append (dueAt_sublist s .B)

/-- What makes an event due: a line has its sample still to take, or a timer has come to its expiry. -/
def State.isDue (s : State) : Due → Prop
  | .line l => (s.lines.at l).waiting ≠ none
  | .verify o => (s.outputs.at o).verifyDue s.now = true
  | .grace o => (s.outputs.at o).graceDue s.now = true
  | .retransmit p => expired s.now (s.engines.at p).retransmit = true
  | .silence p => (s.sessions.at p).state.silenceDue s.now = true
  | .retain p => (s.sessions.at p).state.retainDue s.now = true
  | .gap p => (s.ports.at p).receiver.gapDue s.now = true

theorem mem_due (s : State) (d : Due) : d ∈ s.due ↔ s.isDue d := by
  unfold State.due State.waitingLines State.isDue
  simp only [List.mem_append, mem_dueAt, List.mem_map, List.mem_filter, List.mem_finRange, true_and]
  cases d with
  | line l => simp [Option.isSome_iff_ne_none]
  | verify o => simp
  | grace o => simp
  | retransmit p => cases p <;> simp
  | silence p => cases p <;> simp
  | retain p => cases p <;> simp
  | gap p => cases p <;> simp

/-! ### The sample itself -/

/-- The first sample of a wait starts the verify timer (R138). -/
theorem startVerify_eq (now : Nat) (o : Output) : o.startVerify now = match o.verify with
    | .waiting none => { o with verify := .waiting (some (now + 4 * o.verifyTime)) }
    | .waiting (some _) | .off | .deferred | .ok | .unverified => o := by
  unfold Output.startVerify
  rcases o.verify with _ | (_ | e) | _ | _ | _ <;> rfl

/-- The sample moves the clock, offers every line its level and starts verify timers (R3, R5, R138, R145). -/
theorem tick_sampled (s : State) (raw : BitVec 64) : s.sampledTo raw (s.tick raw) := by
  refine ⟨rfl, rfl, ?_, fun o => ?_, fun l => ⟨fun he => ?_, fun he => ?_⟩⟩
  · rw [co_iff]; simp [State.tick, State.updateLines, State.updateOutputs, Block.same]
  · exact (Tab.at_update _ _ _).trans (startVerify_eq _ _)
  · exact (Tab.at_update _ _ _).trans (offer_event he)
  · exact (Tab.at_update _ _ _).trans (offer_quiet he)

/-- Settles O52: the free order of the due events, what is due, and what takes each. -/
theorem aSampleIsTakenAtEveryLine : Obligations.ASampleIsTakenAtEveryLine := by
  refine ⟨fun s raw hr => ?_, fun s => ?_, fun s hr => ⟨fun o => ?_, fun p => ?_, fun l x hw => ?_⟩⟩
  · exact ⟨arrange s.choice s.due, s.takeAllDue.tick raw, arrange_perm _ _, 
      whenRunning_running hr fun s => s.takeAllDue.tick raw, tick_sampled s.takeAllDue raw⟩
  · refine ⟨everyDue_nodup.sublist (due_sublist s), fun l => mem_due s _, fun o => ?_, fun o => ?_, fun p => ?_⟩
    · exact (mem_due s _).trans (verifyDue_iff ..)
    · exact (mem_due s _).trans (graceDue_iff ..)
    · exact ⟨(mem_due s _).trans (expired_iff ..), (mem_due s _).trans (silenceDue_iff ..),
        (mem_due s _).trans (retainDue_iff ..), (mem_due s _).trans (gapDue_iff ..)⟩
  · exact ⟨verifyExpiry_takes hr o, whenRunning_running hr (State.expireGrace · o)⟩
  · exact ⟨whenRunning_running hr (State.expireRetransmit · p), whenRunning_running hr (State.expireSilence · p),
      whenRunning_running hr (State.expireRetain · p), whenRunning_running hr (State.expireGap · p)⟩
  · exact ⟨rawEdge_takes hr hw, fun settle hs hd => settleExpiry_takes hr hw hs hd,
      fun d stamp expiry hs he => debounceExpiry_takes hr hw hs he,
      fun d quiet hs hq hl => quietExpiry_takes hr hw hs hq hl, chatterWindowExpiry_takes hr hw⟩

end Sys2Proof.Machine
end

section
/-! PROOFS. The line requests READ_LINE_CONFIG, READ_COUNTERS and READ_LINES (spec/01, 1.5), and the values after a reset. -/

namespace Sys2Proof.Machine

open Sys2Proof

/-! ### One-byte arguments -/

/-- A byte of the payload is echoed as it came (R177). -/
theorem byteOf_arg8 (payload : List Byte) (i : Nat) : byteOf (arg8 payload i) = payload.getD i 0 := by
  simp [byteOf, arg8]

/-- A flag is 0 or 1 (R175). -/
theorem argFlag_eq (payload : List Byte) (i : Nat) :
    argFlag payload i = if arg8 payload i ≤ 1 then some (decide (arg8 payload i = 1)) else none := flag_eq _

/-! ### Runs of lines -/

/-- The two bytes that name a run, with their ranges (R20, R21). -/
theorem lineRun_eq {first count : Nat} (hf : first < 256) (hc : count < 256) (rest : List Byte) :
    lineRun (byteOf first :: byteOf count :: rest) =
      if first ≤ 63 ∧ 1 ≤ count ∧ count ≤ 16 ∧ first + count ≤ 64 then
        some (linesNamed fun l => decide (first ≤ l.val ∧ l.val < first + count))
      else none := by
  have h0 : arg8 (byteOf first :: byteOf count :: rest) 0 = first := byteOf_small hf
  have h1 : arg8 (byteOf first :: byteOf count :: rest) 1 = count := byteOf_small hc
  simp only [lineRun, h0, h1, linesNamed, Bool.decide_and, Nat.lt_succ_iff]

/-- The lines that a predicate names. -/
theorem mem_linesNamed (named : LineId → Bool) (l : LineId) : l ∈ linesNamed named ↔ named l = true := by
  simp [linesNamed]

/-- The configuration fields of a line in their bytes (R177). -/
theorem configBytes_eq (c : LineConfig) : c.bytes =
    [if c.enable then 1 else 0, if c.invert then 1 else 0, byteOf c.debounce, byteOf c.chatterLimit] ++
      leBytes 2 c.chatterWindow ++
      ([match c.counted with
        | .none => 0
        | .rising => 1
        | .falling => 2
        | .both => 3] : List Byte) := by
  unfold LineConfig.bytes flagByte CountedEdge.byte
  cases c.counted <;> rfl

/-- Settles O17: a valid run is reported, any other is refused. -/
theorem readLineConfigReportsARun : Obligations.ReadLineConfigReportsARun := by
  intro p s f first count hf hc h
  refine ⟨fun hv => exec_answered h rfl rfl ?_, fun hv => exec_answered h rfl rfl ?_⟩
  · simp only [readLineConfigOwn, lineRun_eq hf hc, if_pos hv, accept, byteOf_arg8, popRequest_lines,
      configBytes_eq]
    rfl
  · simp only [readLineConfigOwn, lineRun_eq hf hc, if_neg hv, refuse]

/-- READ_COUNTERS clears the counters of its run with the flag set, and none without it (R21). -/
theorem clearCounters_eq (s : State) (named : LineId → Bool) (clear : Prop) [Decidable clear] :
    (if clear then s.updateLines fun l r => if l ∈ linesNamed named then { r with edges := 0 } else r else s) =
      s.updateLines fun l r => if clear ∧ named l = true then { r with edges := 0 } else r := by
  by_cases hc : clear
  · simp [hc, mem_linesNamed]
  · simp [hc, State.updateLines, Tab.update_self]

/-- Settles O18: a valid run and flag report and clear, anything else is refused. -/
theorem readCountersReportsAndClears : Obligations.ReadCountersReportsAndClears := by
  intro p s f first count clear hf hc hclear h valid inRun
  have hflag := argFlag_eq [byteOf first, byteOf count, byteOf clear] 2
  rw [show arg8 [byteOf first, byteOf count, byteOf clear] 2 = clear from byteOf_small hclear] at hflag
  refine ⟨fun hv => exec_answered h rfl rfl ?_, fun hv => exec_answered h rfl rfl ?_⟩
  · obtain ⟨h1, h2, h3, h4, h5⟩ := hv
    have hrun : lineRun [byteOf first, byteOf count, byteOf clear] = some (linesNamed inRun) := by
      rw [lineRun_eq hf hc, if_pos ⟨h1, h2, h3, h4⟩]
    rw [if_pos h5] at hflag
    simp only [readCountersOwn, hrun, hflag, accept, byteOf_arg8,
      decide_eq_true_eq, clearCounters_eq]
    rfl
  · by_cases hrun : first ≤ 63 ∧ 1 ≤ count ∧ count ≤ 16 ∧ first + count ≤ 64
    · have hbad : ¬ clear ≤ 1 := fun h5 => by
        obtain ⟨h1, h2, h3, h4⟩ := hrun
        exact hv ⟨h1, h2, h3, h4, h5⟩
      rw [if_neg hbad] at hflag
      simp only [readCountersOwn, lineRun_eq hf hc, if_pos hrun, hflag, refuse]
    · simp only [readCountersOwn, lineRun_eq hf hc, if_neg hrun, refuse]

/-! ### READ_LINES -/

/-- The three fields of an entry in their bits (R178). -/
theorem entryBits_eq : ∀ (state : Fin 5) (level : Option Bool) (raw : Bool),
    byteOf (state.val + 8 * (levelByte level).toNat + 32 * raw.toNat) =
      byteOf state.val ||| (levelByte level <<< 3) ||| (flagByte raw <<< 5) := by
  decide

/-- The code of a line state is below 5 (R175). -/
theorem code_lt (st : LineState) : st.code < 5 := by cases st <;> simp [LineState.code]

/-- The code of a line state in its byte (R175). -/
theorem codeByte_eq (st : LineState) : byteOf st.code = match st with
    | .disabled _ => 0
    | .init _ => 1
    | .stable _ => 2
    | .pending _ _ _ => 3
    | .chatter _ _ => 4 := by
  cases st <;> rfl

/-- D of a line state in its byte (R175). -/
theorem stateLevelByte_eq (st : LineState) : levelByte st.level = match st with
    | .disabled none | .init _ => 2
    | .disabled (some d) | .stable d | .pending d _ _ | .chatter d _ => if d then 1 else 0 := by
  rcases st with (_ | _ | _) | _ | (_ | _) | ⟨_ | _, _, _⟩ | ⟨_ | _, _⟩ <;> rfl

/-- The last raw sample in its bit, 0 while there is none (R178). -/
theorem rawByte_eq (raw : Option Bool) : flagByte (raw.getD false) = if raw = some true then 1 else 0 := by
  rcases raw with _ | _ | _ <;> rfl

/-- The entry of a line from the bytes of its state, its D and its last raw sample (R178). -/
theorem lineEntry_eq {r : LineRec} {state level raw : Byte} (hs : byteOf r.state.code = state)
    (hl : levelByte r.state.level = level) (hr : flagByte (r.lastRaw.getD false) = raw) :
    r.entry = state ||| (level <<< 3) ||| (raw <<< 5) := by
  subst hs hl hr
  exact entryBits_eq ⟨r.state.code, code_lt r.state⟩ r.state.level (r.lastRaw.getD false)

/-- READ_LINES is answered from the state in which the sample in progress is finished (R22; log 15). -/
theorem readLines_answered {p : Port} {s : State} {f : Frame} (h : s.serves p .readLines [] f) :
    exec (.readLines p) s = .next (s.finishSample.answered p f .ok
      ((List.finRange 64).map fun l => (s.finishSample.lines.at l).entry)) := by
  have hports : s.finishSample.ports = s.ports := finishSample_only s .ports (by simp [hearBlocks])
  have hpop : (s.popRequest p).finishSample = s.finishSample.popRequest p := by
    have := finishSample_ports s (s.ports.put p { s.ports.at p with requests := (s.ports.at p).requests.tail })
    simp only [State.popRequest, State.putPort, hports]
    exact this
  refine exec_answered h rfl rfl ?_
  simp only [readLinesOwn, accept, hpop, popRequest_lines]

/-- Settles O19: without a waiting line the entries are those of the state, with some they come after the last of them. -/
theorem readLinesReportsEveryLine : Obligations.ReadLinesReportsEveryLine := by
  intro p s f h entries
  have hentries : ∀ t : State, ((List.finRange 64).map fun l => (t.lines.at l).entry) = entries t := fun t =>
    List.map_congr_left fun l _ => lineEntry_eq (codeByte_eq _) (stateLevelByte_eq _) (rawByte_eq _)
  obtain ⟨none_waits, some_waits⟩ := finishSample_order s
  have answered := readLines_answered h
  rw [hentries] at answered
  refine ⟨fun hn => ?_, fun hw => ?_⟩
  · rwa [none_waits hn] at answered
  · obtain ⟨order, hnodup, hmem, hfold⟩ := some_waits hw
    rw [hfold] at answered
    refine ⟨order, hnodup, hmem, fun l => foldl_takeLine_waiting order _ l ?_, answered⟩
    rw [hmem]
    exact eq_or_ne _ _

/-! ### The values after a reset -/

/-- Settles O2: every entry of a table of the reset state is the reset record. -/
theorem resetGivesTheStatedValues : Obligations.ResetGivesTheStatedValues := by
  have blocks : State.reset.atResetValues .r115200 .r115200 :=
    ⟨rfl, fun l => Tab.at_replicate _ l, fun w => Tab.at_replicate _ w, fun o => Tab.at_replicate _ o,
      fun p => by cases p <;> exact ⟨rfl, rfl, rfl⟩, fun p => by cases p <;> rfl⟩
  exact ⟨blocks, rfl, rfl, rfl, rfl, rfl, rfl, rfl, rfl⟩

end Sys2Proof.Machine
end

section
/-! PROOFS. CONFIG_LINE: how its payload reads back, what it makes of lines and outputs, and its refusals (spec/01, R18 and
R19). -/

namespace Sys2Proof.Machine

open Sys2Proof

/-! ### The payload of CONFIG_LINE reads back -/

/-- The lines named by the mask (R176). -/
theorem configPayload_named (named : LineId → Bool) (enable invert debounce limit window counted : Nat) :
    argMask 64 (configPayload named enable invert debounce limit window counted) 0 8 = linesNamed named := by
  rw [configPayload, List.append_assoc, List.append_assoc, argMask0 (by rfl), linesNamed]

/-- The fields behind the mask (R176). -/
theorem configPayload_fields (named : LineId → Bool) {enable invert debounce limit window counted : Nat}
    (he : enable < 256) (hi : invert < 256) (hd : debounce < 256) (hl : limit < 256) (hw : window < 65536)
    (hc : counted < 256) :
    let payload := configPayload named enable invert debounce limit window counted
    arg8 payload 8 = enable ∧ arg8 payload 9 = invert ∧ arg8 payload 10 = debounce ∧ arg8 payload 11 = limit ∧
      argLe payload 12 2 = window ∧ arg8 payload 14 = counted := by
  have hmask : (maskBytes 8 64 named).length = 8 := maskBytes_length ..
  have hwindow : leNat (leBytes 2 window) = window := by rw [leNat_leBytes]; omega
  simp only [configPayload, List.append_assoc]
  refine ⟨?_, ?_, ?_, ?_, ?_, ?_⟩
  case refine_5 => rw [argLe_skip _ _ _ _ (by omega), hmask]; exact hwindow
  all_goals rw [arg8_skip _ _ _ (by omega), hmask]
  · exact byteOf_small he
  · exact byteOf_small hi
  · exact byteOf_small hd
  · exact byteOf_small hl
  · exact byteOf_small hc

/-- A counted edge has an encoding up to 3 (R175). -/
theorem argCounted_isSome (payload : List Byte) (i : Nat) :
    (argCounted payload i).isSome = true ↔ arg8 payload i ≤ 3 := by
  unfold argCounted
  rcases arg8 payload i with _ | _ | _ | _ | n <;> simp

/-- A counted edge reads back from its byte (R175). -/
theorem argCounted_byte {payload : List Byte} {i : Nat} {c : CountedEdge} (h : arg8 payload i = c.byte.toNat) :
    argCounted payload i = some c := by
  unfold argCounted
  rw [h]
  cases c <;> rfl

/-- The fields of a configuration, in their ranges (R18). -/
abbrev configInRange (payload : List Byte) : Prop :=
  arg8 payload 8 ≤ 1 ∧ arg8 payload 9 ≤ 1 ∧ arg8 payload 10 ≤ 250 ∧ arg8 payload 11 ≤ 63 ∧ 10 ≤ argLe payload 12 2 ∧
    argLe payload 12 2 ≤ 10000 ∧ arg8 payload 14 ≤ 3

/-- The arguments give a configuration exactly when every field is in its range (R18). -/
theorem configArgs_eq (payload : List Byte) : configArgs payload =
    if configInRange payload then
      (argCounted payload 14).map fun counted =>
        { enable := decide (arg8 payload 8 = 1), invert := decide (arg8 payload 9 = 1), debounce := arg8 payload 10,
          chatterLimit := arg8 payload 11, chatterWindow := argLe payload 12 2, counted := counted }
    else none := by
  have hcounted := argCounted_isSome payload 14
  unfold configArgs configInRange
  rw [argFlag_eq, argFlag_eq]
  by_cases h8 : arg8 payload 8 ≤ 1
  · by_cases h9 : arg8 payload 9 ≤ 1
    · rcases hc : argCounted payload 14 with _ | c
      · simp [h8, h9]
      · have h14 : arg8 payload 14 ≤ 3 := hcounted.mp (by simp [hc])
        simp [h8, h9, h14]
    · simp [h8, h9]
  · simp [h8]

/-- The arguments of a configuration in its ranges are that configuration (R18). -/
theorem configArgs_inRange (named : LineId → Bool) {c : LineConfig} (hc : c.inRange) :
    configArgs (configPayload named c.enable.toNat c.invert.toNat c.debounce c.chatterLimit c.chatterWindow
      c.counted.byte.toNat) = some c := by
  obtain ⟨hd, hl, hw1, hw2⟩ := hc
  have hflag : ∀ b : Bool, b.toNat < 256 ∧ b.toNat ≤ 1 ∧ decide (b.toNat = 1) = b := by decide
  have hbyte : c.counted.byte.toNat < 256 ∧ c.counted.byte.toNat ≤ 3 := by cases c.counted <;> decide
  obtain ⟨f8, f9, f10, f11, f12, f14⟩ := configPayload_fields named (hflag c.enable).1 (hflag c.invert).1
    (show c.debounce < 256 by omega) (show c.chatterLimit < 256 by omega) (show c.chatterWindow < 65536 by omega) hbyte.1
  rw [configArgs_eq, if_pos, argCounted_byte f14, f8, f9, f10, f11, f12, (hflag c.enable).2.2, (hflag c.invert).2.2]
  · rfl
  · rw [configInRange, f8, f9, f10, f11, f12, f14]
    exact ⟨(hflag c.enable).2.1, (hflag c.invert).2.1, hd, hl, hw1, hw2, hbyte.2⟩

/-! ### What an accepted CONFIG_LINE writes -/

/-- An output after a reconfiguration of its readback line: UNVERIFIED where it was WAITING, DEFERRED or OK (R142). -/
def Output.reconfigured (r : Output) : Output :=
  match r.verify with
  | .waiting _ | .deferred | .ok => { r with verify := .unverified }
  | .off | .unverified => r

theorem hearOutput_reconfigured (s : State) (o : OutId) :
    s.hearOutput o .reconfigured = s.putOutput o (s.outputs.at o).reconfigured := hearOutput_reconf s o

/-- The outputs of a list of distinct ones are reconfigured one by one (R142). -/
theorem foldl_reconfigured (named : List LineId) (os : List OutId) (hos : os.Nodup) (s : State) :
    os.foldl (fun s o => if OutId.readback o ∈ named then s.hearOutput o .reconfigured else s) s =
      s.updateOutputs fun o r => if o ∈ os ∧ OutId.readback o ∈ named then r.reconfigured else r := by
  induction os generalizing s with
  | nil => simp [State.updateOutputs, Tab.update_self]
  | cons o os ih =>
    obtain ⟨hnew, hos⟩ := List.nodup_cons.mp hos
    rw [List.foldl_cons, ih hos]
    by_cases ho : OutId.readback o ∈ named
    · rw [if_pos ho, hearOutput_reconfigured, State.updateOutputs, State.updateOutputs, State.putOutput]
      congr 1
      apply Tab.ext_at
      intro i
      by_cases hi : i = o
      · subst hi; simp [hnew, ho]
      · simp [hi]
    · rw [if_neg ho]
      congr 1
      funext i r
      by_cases hi : i = o
      · subst hi; simp [ho]
      · simp [hi]

/-- Every named readback line leaves its output reconfigured (R142). -/
theorem reconfigureOutputs_eq (s : State) (named : LineId → Bool) : s.reconfigureOutputs (linesNamed named) =
    s.updateOutputs fun o r => if named o.readback then r.reconfigured else r := by
  rw [State.reconfigureOutputs, foldl_reconfigured _ _ (List.nodup_finRange 16)]
  simp only [List.mem_finRange, true_and, mem_linesNamed]

/-- An accepted CONFIG_LINE rewrites the named lines and the outputs of the readback lines among them (R19, R142). -/
theorem configureLines_eq (s : State) (named : LineId → Bool) (c : LineConfig) :
    s.configureLines (linesNamed named) c =
      (s.updateLines fun l r => if named l then r.configure c else r).updateOutputs
        fun o r => if named o.readback then r.reconfigured else r := by
  simp only [State.configureLines, reconfigureOutputs_eq, mem_linesNamed]

/-! ### The checks of CONFIG_LINE -/

/-- The mask names no line (R18). -/
theorem linesNamed_isEmpty (named : LineId → Bool) :
    (linesNamed named).isEmpty = true ↔ ¬ ∃ l, named l = true := by
  rw [linesNamed, filter_isEmpty]
  simp

/-- A named line is a member of a set in use (R18). -/
theorem linesNamed_inUse (s : State) (named : LineId → Bool) :
    (linesNamed named).any s.lineInUse = true ↔ ∃ l, named l = true ∧ s.watches l := by
  simp [List.any_eq_true, mem_linesNamed, lineInUse_iff]

/-- Fields in their ranges give a configuration, any other fields none (R18). -/
theorem configArgs_cases (payload : List Byte) :
    (configInRange payload → ∃ c, configArgs payload = some c) ∧
    (¬ configInRange payload → configArgs payload = none) := by
  rw [configArgs_eq]
  refine ⟨fun h => ?_, fun h => if_neg h⟩
  have ⟨_, _, _, _, _, _, h14⟩ := h
  obtain ⟨counted, hc⟩ := Option.isSome_iff_exists.mp ((argCounted_isSome payload 14).mpr h14)
  rw [if_pos h, hc]
  exact ⟨_, rfl⟩

/-- CONFIG_LINE is accepted with a configuration, a named line, and none of the named lines in use (R18, R19). -/
theorem configLineOwn_accepts {payload : List Byte} {c : LineConfig} {named : LineId → Bool} {s : State} (p : Port)
    (hn : argMask 64 payload 0 8 = linesNamed named) (ha : configArgs payload = some c) (hsome : ∃ l, named l = true)
    (hfree : ∀ l, named l = true → ¬ s.watches l) :
    configLineOwn p payload s = accept (s.configureLines (linesNamed named) c) [] := by
  have hempty : ¬ (linesNamed named).isEmpty = true := fun h => (linesNamed_isEmpty named).mp h hsome
  have hunused : ¬ (linesNamed named).any s.lineInUse = true := fun h => by
    obtain ⟨l, hl, hwatch⟩ := (linesNamed_inUse s named).mp h
    exact hfree l hl hwatch
  simp only [configLineOwn, hn, ha, if_neg hempty, if_neg hunused]

/-- CONFIG_LINE with a field out of range or without a named line (R18). -/
theorem configLineOwn_badArg {payload : List Byte} {named : LineId → Bool} (p : Port) (s : State)
    (hn : argMask 64 payload 0 8 = linesNamed named) (h : ¬ (configInRange payload ∧ ∃ l, named l = true)) :
    configLineOwn p payload s = refuse s .badArg := by
  obtain ⟨inRange, outOfRange⟩ := configArgs_cases payload
  by_cases hr : configInRange payload
  · obtain ⟨c, hc⟩ := inRange hr
    have hempty : (linesNamed named).isEmpty = true := (linesNamed_isEmpty named).mpr fun hsome => h ⟨hr, hsome⟩
    simp only [configLineOwn, hn, hc, if_pos hempty]
  · simp only [configLineOwn, outOfRange hr]

/-- CONFIG_LINE on a line in use (R18). -/
theorem configLineOwn_inUse {payload : List Byte} {named : LineId → Bool} (p : Port) {s : State}
    (hn : argMask 64 payload 0 8 = linesNamed named) (hr : configInRange payload)
    (h : ∃ l, named l = true ∧ s.watches l) : configLineOwn p payload s = refuse s .inUse := by
  obtain ⟨c, hc⟩ := (configArgs_cases payload).1 hr
  obtain ⟨l, hl, hwatch⟩ := h
  have hempty : ¬ (linesNamed named).isEmpty = true := fun he => (linesNamed_isEmpty named).mp he ⟨l, hl⟩
  have hused : (linesNamed named).any s.lineInUse = true := (linesNamed_inUse s named).mpr ⟨l, hl, hwatch⟩
  simp only [configLineOwn, hn, hc, if_neg hempty, if_pos hused]

/-- The payload of CONFIG_LINE has its one valid length (R176). -/
theorem configPayload_length (named : LineId → Bool) (enable invert debounce limit window counted : Nat) :
    (configPayload named enable invert debounce limit window counted).length = ReqKind.configLine.length := by
  simp [configPayload, ReqKind.length]

/-- Settles O16: the accepted request, and its refusals in the order of their checks. -/
theorem configLineSendsLinesThroughInit : Obligations.ConfigLineSendsLinesThroughInit := by
  constructor
  · intro p s f named c hc hsome hfree h
    refine exec_answered h (configPayload_length ..) rfl ?_
    rw [configLineOwn_accepts (s := s.popRequest p) p (configPayload_named ..) (configArgs_inRange named hc) hsome hfree,
      configureLines_eq]
    rfl
  · intro p s f named enable invert debounce limit window counted he hi hd hl hw hc h inRange
    have hnamed := configPayload_named named enable invert debounce limit window counted
    have hrange : inRange ↔ configInRange (configPayload named enable invert debounce limit window counted) ∧
        ∃ l, named l = true := by
      obtain ⟨f8, f9, f10, f11, f12, f14⟩ := configPayload_fields named he hi hd hl hw hc
      rw [configInRange, f8, f9, f10, f11, f12, f14]
      simp only [inRange, and_assoc]
    refine ⟨fun hbad => exec_answered h (configPayload_length ..) rfl ?_,
      fun hgood hused => exec_answered h (configPayload_length ..) rfl ?_⟩
    · exact configLineOwn_badArg p _ hnamed fun hr => hbad (hrange.mpr hr)
    · exact configLineOwn_inUse p hnamed (hrange.mp hgood).1 hused

end Sys2Proof.Machine
end

section
/-! PROOFS. What a step can do to sets, journals, sessions and outputs, said once: every step is made of the changes named here, so
an invariant that each of them keeps is kept by every step. -/

namespace Sys2Proof.Machine

open Sys2Proof

/-- What the invariants of sets, journals, sessions and outputs hang on is the same in both states. -/
structure State.SameHoldings (s t : State) : Prop where
  level : t.level = s.level
  sets : t.sets = s.sets
  journals : t.journals = s.journals
  sessions : t.sessions = s.sessions
  outputs : ∀ o, (t.outputs.at o).state = (s.outputs.at o).state

/-- A record or a loss may be noted for the session: it is OPEN or LAPSED, or owns an output. -/
def State.mayHold (s : State) (p : Port) : Prop := s.live p ∨ ∃ o, (s.outputs.at o).state.owner = some p

/-- One change of sets, journals, sessions or outputs, with the checks that its rule has made. -/
inductive Change (s : State) : State → Prop
  | quiet {t : State} (h : s.SameHoldings t) : Change s t
  /-- the loss flag (R61, R69) -/
  | lossFlag {p : Port} (flag : Bool) (hp : s.mayHold p) : Change s (s.putSession p { s.sessions.at p with loss := flag })
  /-- a valid frame (R164) -/
  | silence (p : Port) : Change s (s.restartSilence p)
  /-- a session-wide record (R58) -/
  | sessionRecord {p : Port} {r : Rec} (hp : s.mayHold p) (hr : r.body.set? = none) : Change s (s.append p r)
  /-- a line and its neighbours (R3, R15) -/
  | line (l : LineId) : Change s (s.takeLine l)
  /-- CONFIG_LINE, on lines of no set in use (R18, R19) -/
  | configure {named : LineId → Bool} (c : LineConfig) (h : ∀ l, named l = true → ¬ s.watches l) :
      Change s (s.updateLines fun l r => if named l then r.configure c else r)
  /-- the records of a notice sent for the first time (R77) -/
  | sent {p : Port} {fresh : List Rec} (next : Seq) (h : fresh <+: (s.journals.at p).unsent) :
      Change s (s.putJournal p ((s.journals.at p).sendFresh next fresh))
  | acknowledge {p : Port} (d : Nat) (hp : s.isOpen p = true) : Change s (s.acknowledge p d)
  | define {p : Port} {w : SetId} {members : List LineId} (mode : SetMode) (hp : s.isOpen p = true) (hm : members ≠ [])
      (hsorted : members.Pairwise (· < ·)) (hw : ∀ ws, s.sets.at w = some ws → ws.phase = .idle) :
      Change s (s.putSet w (some (defined p mode members)))
  /-- ARM_SET of an IDLE set, ACK_SET and RESYNC_SET of a SUMMARY set (R37, R41, R45) -/
  | snap {w : SetId} {ws : WatchSet} (hs : s.sets.at w = some ws)
      (h : ws.phase = .idle ∧ s.levelsKnown ws = true ∨ ws.mode = .summary ∧ ws.phase ≠ .idle) :
      Change s (s.snapSet w ws).state
  | disarm {w : SetId} {ws : WatchSet} (hs : s.sets.at w = some ws) :
      Change s ((s.voidSet ws.owner w).putSet w (some { ws with phase := .idle, attention := false }))
  | delete {w : SetId} {ws : WatchSet} (hs : s.sets.at w = some ws) (hi : ws.phase = .idle) : Change s (s.putSet w none)
  /-- RESYNC_SET of a record-mode set (R43) -/
  | mark {w : SetId} {ws : WatchSet} (hs : s.sets.at w = some ws) (hu : ws.phase ≠ .idle) (hm : ws.mode ≠ .summary) :
      Change s (((s.putJournal ws.owner ((s.journals.at ws.owner).dropUnsentOf w)).append ws.owner
        (s.resyncMark w ws)).putSet w (some { ws with phase := .armed }))
  | adopt {p : Port} {w : SetId} {ws : WatchSet} (hs : s.sets.at w = some ws) (ho : ws.owner = p.other)
      (hp : s.isOpen p = true) (hl : s.isLapsed p.other = true) : Change s (s.adopt p w ws)
  /-- CLAIM_OUTPUT, which takes outputs of a LAPSED session alone (R119, R132) -/
  | claim {p : Port} {named : List OutId} (hp : s.isOpen p = true)
      (h : ∀ o ∈ named, (s.outputs.at o).state.owner = some p.other → s.isLapsed p.other = true) : Change s (s.claim p named)
  /-- outputs released or written (R134, R135) -/
  | outputs {p : Port} {f : OutId → Output → Output} (hp : s.isOpen p = true)
      (h : ∀ o r, (f o r).state = r.state ∨ (f o r).state = .free ∨ (f o r).state = .owned p) : Change s (s.updateOutputs f)
  | grace (o : OutId) : Change s (s.expireGrace o)
  | teardown (p : Port) : Change s (s.teardown p)
  | freshOpen {p : Port} (prm : Params) (h : (s.sessions.at p).state = .closed) : Change s (s.freshOpen p prm)
  | resume {p : Port} (old new : Params) (h : s.isLapsed p = true) : Change s (s.resume p old new)
  | lapse {p : Port} {prm : Params} {silence : Nat} (why : LapseReason)
      (h : (s.sessions.at p).state = .opened prm silence) (hr : prm.retain ≠ 0) : Change s (s.lapse p why)

/-- Sets, journals, sessions and outputs are as after a reset (R23, R47, R93, R127). -/
structure State.Emptied (s : State) : Prop where
  sets : ∀ w, s.sets.at w = none
  journals : ∀ p, s.journals.at p = Journal.empty
  sessions : ∀ p, s.sessions.at p = Session.reset
  outputs : ∀ o, (s.outputs.at o).state = .free

/-! ### Changes of nothing that is held -/

/-- The levels hang on the lines alone (R2). -/
theorem level_of_lines {s t : State} (h : t.lines = s.lines) : t.level = s.level := by
  funext l; simp only [State.level, h]

/-- A change of clock, engines, ports, orders, reset or queue alone. -/
theorem sameHoldings_of_only {s t : State} (h : s.changesOnly [.clock, .reset, .engines, .ports, .orders, .queue] t) :
    s.SameHoldings t where
  level := level_of_lines (h .lines (by simp))
  sets := h .sets (by simp)
  journals := h .journals (by simp)
  sessions := h .sessions (by simp)
  outputs := by
    have : t.outputs = s.outputs := h .outputs (by simp)
    simp [this]

/-- A change of the line records that keeps their levels. -/
theorem sameHoldings_updateLines {s : State} {f : LineId → LineRec → LineRec}
    (h : ∀ l r, (f l r).state.level = r.state.level) : s.SameHoldings (s.updateLines f) where
  level := by funext l; simp [State.level, h]
  sets := rfl
  journals := rfl
  sessions := rfl
  outputs := fun _ => rfl

/-- A change of the output records that keeps their states. -/
theorem sameHoldings_updateOutputs {s : State} {f : OutId → Output → Output} (h : ∀ o r, (f o r).state = r.state) :
    s.SameHoldings (s.updateOutputs f) where
  level := rfl
  sets := rfl
  journals := rfl
  sessions := rfl
  outputs := fun o => by simp [h]

/-- A change of one output record that keeps its state. -/
theorem sameHoldings_putOutput {s : State} {o : OutId} {r : Output} (h : r.state = (s.outputs.at o).state) :
    s.SameHoldings (s.putOutput o r) where
  level := rfl
  sets := rfl
  journals := rfl
  sessions := rfl
  outputs := fun i => by
    by_cases hi : i = o
    · subst hi; simp [h]
    · simp [hi]

/-- A sample that is offered to a line changes no level (R3). -/
theorem offer_level_same (r : LineRec) (now : Nat) (time : Time) (x : Bool) :
    (r.offer now time x).state.level = r.state.level := by
  by_cases he : isEventAt r x now
  · rw [offer_event he]
  · rw [offer_quiet he, LineRec.left, quietState]
    rcases r.state with _ | (_ | _) | _ | _ | _ <;> rfl

/-- The sample itself changes nothing that is held (R3, R138). -/
theorem tick_sameHoldings (s : State) (raw : BitVec 64) : s.SameHoldings (s.tick raw) where
  level := by
    funext l
    simp [State.level, State.tick, State.updateLines, State.updateOutputs, offer_level_same]
  sets := rfl
  journals := rfl
  sessions := rfl
  outputs := fun o => by simp [State.tick, State.updateOutputs, State.updateLines, startVerify_state]

end Sys2Proof.Machine
end

section
/-! PROOFS. Every step is made of the changes of `Change`. -/

namespace Sys2Proof.Machine

open Sys2Proof

/-! ### Reset -/

/-- The reset values hold nothing (R156). -/
theorem emptied_blocksReset (s : State) : s.blocksReset.Emptied where
  sets := fun w => Tab.at_replicate _ w
  journals := fun p => by cases p <;> rfl
  sessions := fun p => by cases p <;> rfl
  outputs := fun o => by simp [State.blocksReset, State.reset, Output.reset]

/-- A reset that ends leaves nothing held, or the part stays in reset as it was (R149). -/
theorem endReset_cases (s : State) (straps : Straps) : s.endReset straps = s ∨ (s.endReset straps).Emptied := by
  unfold State.endReset
  split
  · exact Or.inl rfl
  · split
    · obtain ⟨hs, hj, hp, ho⟩ := emptied_blocksReset s
      exact Or.inr ⟨hs, hj, hp, ho⟩
    · exact Or.inl rfl

/-- What a request on an existing set keeps when its rule on a set of the requester keeps it (R34). -/
theorem keeps_ownSet {P : State → Prop} {s : State} {p : Port} {payload : List Byte} {own : SetId → WatchSet → Answer} (hs : P s)
    (h : ∀ w ws, s.sets.at w = some ws → ws.owner = p → P (own w ws).state) : P (ownSet p payload s own).state := by
  unfold ownSet
  split
  · exact hs
  · split
    · exact hs
    · rename_i hset
      split
      · rename_i ho; exact h _ _ hset ho
      · exact hs

section parts

variable {P : State → Prop} (H : ∀ s t : State, Change s t → P s → P t)
include H

/-- What a change of clock, engines, ports, orders, reset or queue alone keeps. -/
theorem keeps_only {s t : State} (h : s.changesOnly [.clock, .reset, .engines, .ports, .orders, .queue] t) (hs : P s) :
    P t := H s t (.quiet (sameHoldings_of_only h)) hs

theorem keeps_putEngine {s : State} (p : Port) (e : Engine) (hs : P s) : P (s.putEngine p e) :=
  keeps_only H (changesOnly_mono (putEngine_only s p e) (by simp)) hs

theorem keeps_putPort {s : State} (p : Port) (r : LinkPort) (hs : P s) : P (s.putPort p r) :=
  keeps_only H (changesOnly_mono (putPort_only s p r) (by simp)) hs

theorem keeps_choice {s : State} (n : Nat) (hs : P s) : P { s with choice := n } :=
  keeps_only H (by rw [co_iff]; simp [Block.same]) hs

/-! ### Records and losses -/

theorem keeps_noteLoss {s : State} {p : Port} (hp : s.mayHold p) (hs : P s) : P (s.noteLoss p) := by
  unfold State.noteLoss
  split
  · exact hs
  · exact keeps_putEngine H _ _ (H s _ (.lossFlag true hp) hs)

theorem keeps_admitOrLose {s : State} {p : Port} {r : Rec} (hp : s.mayHold p) (hr : r.body.set? = none) (hs : P s) :
    P (s.admitOrLose p r) := by
  unfold State.admitOrLose State.tryAdmit
  split
  · exact H s _ (.sessionRecord hp hr) hs
  · exact keeps_noteLoss H hp hs

theorem keeps_judgeOutput {s : State} (o : OutId) (d : Bool) (hs : P s) : P (s.judgeOutput o d) := by
  have verdict : ∀ v f, P (s.putOutput o { s.outputs.at o with verify := v, fault := f }) := fun v f =>
    H s _ (.quiet (sameHoldings_putOutput rfl)) hs
  unfold State.judgeOutput
  split
  · exact verdict .ok _
  · unfold State.faultOutput
    dsimp only
    split
    · exact verdict _ _
    · split
      · exact verdict _ _
      · rename_i p hp
        exact keeps_admitOrLose H (Or.inr ⟨o, by simpa using hp⟩) rfl (verdict .unverified true)

theorem keeps_verifyOutput {s : State} (o : OutId) (hs : P s) : P (s.verifyOutput o) := by
  have verdict : ∀ v, P (s.putOutput o { s.outputs.at o with verify := v }) := fun v =>
    H s _ (.quiet (sameHoldings_putOutput rfl)) hs
  unfold State.verifyOutput
  split
  · split
    · exact keeps_judgeOutput H o _ hs
    all_goals exact verdict _
  · exact hs

theorem keeps_markTime {s : State} (old new : Time) (p : Port) (hs : P s) : P (State.markTime old new s p) := by
  unfold State.markTime
  split
  · exact hs
  all_goals
    rename_i hst
    exact keeps_admitOrLose H (Or.inl (by simp [State.live, hst])) rfl hs

theorem keeps_setTime {s : State} (new : Time) (hs : P s) : P (s.setTime new) := by
  unfold State.setTime
  refine foldl_arrange_keeps P _ _ _ _ ?_ fun p _ t ht => keeps_markTime H _ _ p ht
  refine H _ _ (.quiet (sameHoldings_updateLines fun _ r => shift_level r _)) ?_
  exact keeps_only H (by rw [co_iff]; simp [Block.same]) hs

/-! ### Sessions -/

theorem keeps_lapse {s : State} (p : Port) (why : LapseReason) (hs : P s) : P (s.lapse p why) := by
  rcases hst : (s.sessions.at p).state with _ | ⟨prm, silence⟩ | _
  · simpa only [State.lapse, hst] using hs
  · by_cases hr : prm.retain = 0
    · simpa only [State.lapse, hst, if_pos hr] using H s _ (.teardown p) hs
    · exact H s _ (.lapse why hst hr) hs
  · simpa only [State.lapse, hst] using hs

theorem keeps_expireRetransmit {s : State} (p : Port) (hs : P s) : P (s.expireRetransmit p) := by
  unfold State.expireRetransmit
  dsimp only
  split
  · have counted := keeps_putEngine H p
      { s.engines.at p with retryCount := (s.engines.at p).retryCount + 1, retransmit := none } hs
    split
    · exact counted
    · split
      · exact keeps_lapse H p _ counted
      · exact keeps_putEngine H _ _ counted
  · exact hs

theorem keeps_buildNotice {s : State} (p : Port) (hs : P s) : P (s.buildNotice p) := by
  unfold State.buildNotice
  split
  · exact hs
  · split
    · exact keeps_putEngine H _ _ (H _ _ (.sent _ (fresh_prefix _ _ _)) (keeps_putPort H p _ hs))
    · exact hs

theorem keeps_handOn {s : State} (p : Port) (f : Frame) (hs : P s) : P (s.handOn p f) := by
  unfold State.handOn
  dsimp only
  split <;> exact keeps_putPort H _ _ (H s _ (.silence p) hs)

theorem keeps_receive {s : State} (p : Port) (c : Byte) (stop : Framing) (hs : P s) : P (s.receive p c stop) := by
  have port : ∀ r, P (s.putPort p r) := fun r => keeps_putPort H p r hs
  have broken : P (s.takeFramingError p) := by
    unfold State.takeFramingError
    split <;> first | exact hs | exact port _
  unfold State.receive
  split
  · exact hs
  · split
    · unfold State.takeCharacter State.takeLength State.takeBody State.takeCheck
      dsimp only
      repeat' split
      all_goals first | exact hs | exact port _ | exact keeps_handOn H p _ (port _)
    · exact broken
    · exact keeps_putPort H _ _ broken

/-! ### The own rules of the requests -/

theorem keeps_openOwn {s : State} (p : Port) (payload : List Byte) (hs : P s) : P (openOwn p payload s).state := by
  have again : ∀ prm, P ((s.teardown p).freshOpen p prm) := fun prm =>
    H _ _ (.freshOpen prm (by simp [State.teardown, Session.reset])) (H s _ (.teardown p) hs)
  unfold openOwn
  split
  · split
    · rename_i hst; exact H s _ (.freshOpen _ hst) hs
    · split
      · exact again _
      · exact hs
    · rename_i hst
      split
      · exact H s _ (.resume _ _ (by simp [State.isLapsed, hst, SessState.isLapsed])) hs
      · exact again _
  · exact hs
  · exact hs

theorem keeps_configLineOwn {s : State} (p : Port) (payload : List Byte) (hs : P s) :
    P (configLineOwn p payload s).state := by
  have hnamed : argMask 64 payload 0 8 = linesNamed fun l => (argLe payload 0 8).testBit l.val := rfl
  unfold configLineOwn
  rw [hnamed]
  generalize (fun l : LineId => (argLe payload 0 8).testBit l.val) = named
  dsimp only
  split
  · exact hs
  · rename_i c _
    split
    · exact hs
    · split
      · exact hs
      · rename_i hfree
        have free : ∀ l, named l = true → ¬ s.watches l := fun l hl hw => hfree ((linesNamed_inUse s named).mpr ⟨l, hl, hw⟩)
        show P (s.configureLines (linesNamed named) c)
        rw [configureLines_eq]
        refine H _ _ (.quiet (sameHoldings_updateOutputs fun o r => ?_)) (H s _ (.configure c free) hs)
        split
        · unfold Output.reconfigured; split <;> rfl
        · rfl

theorem keeps_readCountersOwn {s : State} (p : Port) (payload : List Byte) (hs : P s) :
    P (readCountersOwn p payload s).state := by
  unfold readCountersOwn
  split
  · dsimp only [accept]
    split
    · exact H s _ (.quiet (sameHoldings_updateLines fun l r => by split <;> rfl)) hs
    · exact hs
  · exact hs
  · exact hs

theorem keeps_defineSetOwn {s : State} {p : Port} (payload : List Byte) (hp : s.isOpen p = true) (hs : P s) :
    P (defineSetOwn p payload s).state := by
  have sorted : (argMask 64 payload 2 8).Pairwise (· < ·) := (List.pairwise_lt_finRange 64).filter _
  unfold defineSetOwn
  split
  · dsimp only
    split
    · exact hs
    · rename_i w mode _ _ hm
      have define := fun hw => H s _ (.define (w := w) mode hp (by simpa using hm) sorted hw) hs
      split
      · rename_i hset; exact define fun ws h => by simp [hset] at h
      · rename_i ws hset
        split
        · exact hs
        · split
          · exact hs
          · rename_i hu
            refine define fun vs h => ?_
            rw [hset] at h
            obtain rfl := Option.some.inj h
            simpa [inUse_iff] using hu
  · exact hs
  · exact hs

theorem keeps_resyncRecords {s : State} {w : SetId} {ws : WatchSet} (hset : s.sets.at w = some ws)
    (hu : ws.phase ≠ .idle) (hm : ws.mode ≠ .summary) (hs : P s) : P (s.resyncRecords ws.owner w ws).state := by
  unfold State.resyncRecords State.tryAdmit
  dsimp only
  by_cases hc : (s.putJournal ws.owner ((s.journals.at ws.owner).dropUnsentOf w)).canAdmit ws.owner = true
  · simpa only [if_pos hc, accept] using H s _ (.mark hset hu hm) hs
  · simpa only [if_neg hc, refuse] using hs

theorem keeps_resyncSetOwn {s : State} (p : Port) (payload : List Byte) (hs : P s) :
    P (resyncSetOwn p payload s).state := by
  refine keeps_ownSet hs fun w ws hset ho => ?_
  subst ho
  by_cases hu : ws.inUse = true
  · rw [if_pos hu]
    rw [inUse_iff] at hu
    split
    · rename_i hm; exact keeps_resyncRecords H hset hu (by simp [hm]) hs
    · rename_i hm; exact keeps_resyncRecords H hset hu (by simp [hm]) hs
    · rename_i hm; exact H s _ (.snap hset (Or.inr ⟨hm, hu⟩)) hs
  · rw [if_neg hu]; exact hs

theorem keeps_armSetOwn {s : State} (p : Port) (payload : List Byte) (hs : P s) : P (armSetOwn p payload s).state := by
  refine keeps_ownSet hs fun w ws hset _ => ?_
  split
  · exact hs
  · rename_i hi
    split
    · rename_i hk; exact H s _ (.snap hset (Or.inl ⟨not_not.mp hi, hk⟩)) hs
    · exact hs

theorem keeps_ackSetOwn {s : State} (p : Port) (payload : List Byte) (hs : P s) : P (ackSetOwn p payload s).state := by
  refine keeps_ownSet hs fun w ws hset _ => ?_
  split
  · rename_i h; exact H s _ (.snap hset (Or.inr ⟨h.1, by simp [h.2]⟩)) hs
  · exact hs

theorem keeps_disarmSetOwn {s : State} (p : Port) (payload : List Byte) (hs : P s) :
    P (disarmSetOwn p payload s).state := by
  refine keeps_ownSet hs fun w ws hset ho => ?_
  subst ho
  split
  · exact H s _ (.disarm hset) hs
  · exact hs

theorem keeps_deleteSetOwn {s : State} (p : Port) (payload : List Byte) (hs : P s) :
    P (deleteSetOwn p payload s).state := by
  refine keeps_ownSet hs fun w ws hset _ => ?_
  split
  · exact hs
  · rename_i hi; exact H s _ (.delete hset (not_not.mp hi)) hs

theorem keeps_adoptSetOwn {s : State} {p : Port} (payload : List Byte) (hp : s.isOpen p = true) (hs : P s) :
    P (adoptSetOwn p payload s).state := by
  unfold adoptSetOwn
  split
  · exact hs
  · split
    · exact hs
    · rename_i hset
      split
      · exact hs
      · rename_i ho
        split
        · rename_i hl; exact H s _ (.adopt hset (Port.eq_other_of_ne ho) hp hl) hs
        · exact hs

theorem keeps_ackOwn {s : State} {p : Port} (payload : List Byte) (hp : s.isOpen p = true) (hs : P s) :
    P (ackOwn p payload s).state := by
  unfold ackOwn
  dsimp only
  split
  · exact hs
  · exact H s _ (.acknowledge _ hp) hs

theorem keeps_journalStatusOwn {s : State} {p : Port} (payload : List Byte) (hp : s.isOpen p = true) (hs : P s) :
    P (journalStatusOwn p payload s).state := by
  unfold journalStatusOwn
  split
  · exact hs
  · dsimp only [accept]
    split
    · refine H s _ (.lossFlag false (Or.inl fun hc => ?_)) hs
      simp [State.isOpen, hc, SessState.isOpen] at hp
    · exact hs

theorem keeps_claimOutputOwn {s : State} {p : Port} (payload : List Byte) (hp : s.isOpen p = true) (hs : P s) :
    P (claimOutputOwn p payload s).state := by
  unfold claimOutputOwn
  dsimp only
  split
  · exact hs
  · rename_i take _
    split
    · exact hs
    · split
      · exact hs
      · rename_i hno
        refine H s _ (.claim hp fun o ho howner => ?_) hs
        have := mt (fun h => List.any_eq_true.mpr ⟨o, ho, h⟩) hno
        simp [State.claimRefused, howner] at this
        exact this.2

theorem keeps_releaseOutputOwn {s : State} {p : Port} (payload : List Byte) (hp : s.isOpen p = true) (hs : P s) :
    P (releaseOutputOwn p payload s).state := by
  unfold releaseOutputOwn
  dsimp only
  split
  · exact hs
  · split
    · refine H s _ (.outputs hp fun o r => ?_) hs
      split
      · exact Or.inr (Or.inl (become_state _ _))
      · exact Or.inl rfl
    · exact hs

theorem keeps_writeOutputsOwn {s : State} {p : Port} (payload : List Byte) (hp : s.isOpen p = true) (hs : P s) :
    P (writeOutputsOwn p payload s).state := by
  unfold writeOutputsOwn
  dsimp only
  split
  · exact hs
  · split
    · exact hs
    · split
      · refine H s _ (.outputs hp fun o r => ?_) hs
        split
        · exact Or.inr (Or.inr (become_state _ _))
        · split
          · exact Or.inr (Or.inr (become_state _ _))
          · exact Or.inl rfl
      · exact hs

theorem keeps_configOutputOwn {s : State} (p : Port) (payload : List Byte) (hs : P s) :
    P (configOutputOwn p payload s).state := by
  unfold configOutputOwn
  split
  · dsimp only
    split
    · split
      · exact H s _ (.quiet (sameHoldings_putOutput rfl)) hs
      · exact hs
    · exact hs
  all_goals exact hs

theorem keeps_readOutputsOwn {s : State} (p : Port) (payload : List Byte) (hs : P s) :
    P (readOutputsOwn p payload s).state := by
  unfold readOutputsOwn
  dsimp only
  split
  · exact H s _ (.quiet (sameHoldings_updateOutputs fun o r => by split <;> rfl)) hs
  · exact hs

/-- Every request's own rule is made of changes. -/
theorem keeps_rule (k : ReqKind) {s : State} {p : Port} (payload : List Byte) (hr : s.resetPeriod = none)
    (hp : k.needsSession = true → s.isOpen p = true) (hs : P s) : P (ReqKind.rule k p payload s).state := by
  cases k with
  | hello => exact hs
  | openSession => exact keeps_openOwn H p payload hs
  | close => exact H s _ (.teardown p) hs
  | ping => exact hs
  | setTime => exact keeps_setTime H _ hs
  | configLine => exact keeps_configLineOwn H p payload hs
  | readLineConfig => simp only [ReqKind.rule, readLineConfigOwn]; split <;> exact hs
  | readLines =>
    exact finishSample_keeps (fun s l _ hs => H s _ (.line l) hs) (fun s n _ hs => keeps_choice H n hs) s hr hs
  | readCounters => exact keeps_readCountersOwn H p payload hs
  | defineSet => exact keeps_defineSetOwn H payload (hp rfl) hs
  | armSet => exact keeps_armSetOwn H p payload hs
  | disarmSet => exact keeps_disarmSetOwn H p payload hs
  | deleteSet => exact keeps_deleteSetOwn H p payload hs
  | readSet => simp only [ReqKind.rule, readSetOwn]; repeat' (first | exact hs | split)
  | ackSet => exact keeps_ackSetOwn H p payload hs
  | resyncSet => exact keeps_resyncSetOwn H p payload hs
  | adoptSet => exact keeps_adoptSetOwn H payload (hp rfl) hs
  | ack => exact keeps_ackOwn H payload (hp rfl) hs
  | journalStatus => exact keeps_journalStatusOwn H payload (hp rfl) hs
  | claimOutput => exact keeps_claimOutputOwn H payload (hp rfl) hs
  | releaseOutput => exact keeps_releaseOutputOwn H payload (hp rfl) hs
  | configOutput => exact keeps_configOutputOwn H p payload hs
  | writeOutputs => exact keeps_writeOutputsOwn H payload (hp rfl) hs
  | readOutputs => exact keeps_readOutputsOwn H p payload hs
  | restart => exact keeps_only H (changesOnly_mono (rule_only .restart p payload s) (by simp [ReqKind.writes])) hs

/-- An invariant of the emptied part that every change keeps is kept by every part of a step. -/
theorem closed_of_changes (hreset : ∀ s : State, s.Emptied → P s) : Closed P where
  own k p payload s hr hs hp _ := keeps_rule H k payload hr hp hs
  pop s p _ hs := keeps_putPort H p _ hs
  respond s p k t st rs _ hs _ := keeps_putPort H p _ hs
  line s l _ hs := H s _ (.line l) hs
  notice s p _ hs := keeps_buildNotice H p hs
  retransmit s p _ hs := keeps_expireRetransmit H p hs
  silence s p _ hs := by
    unfold State.expireSilence
    split
    · exact keeps_lapse H p _ hs
    · exact hs
  retain s p _ hs := by
    unfold State.expireRetain
    split
    · exact H s _ (.teardown p) hs
    · exact hs
  grace s o _ hs := H s _ (.grace o) hs
  verify s o _ hs := keeps_verifyOutput H o hs
  receive s p c x _ hs := keeps_receive H p c x hs
  gap s p _ hs := keeps_only H (changesOnly_mono (expireGap_only s p) (by simp)) hs
  send s p _ hs := keeps_only H (changesOnly_mono (sendResponse_only s p) (by simp)) hs
  ends s p _ hs := keeps_only H (changesOnly_mono (endFrame_only s p) (by simp)) hs
  idle s p _ hs := keeps_putPort H p _ hs
  choice s n _ hs := keeps_choice H n hs
  tick s raw _ hs := H s _ (.quiet (tick_sameHoldings s raw)) hs
  asserted s c := hreset _ (emptied_blocksReset _)
  sources s a b c hs := keeps_only H (by rw [co_iff]; simp [Block.same]) hs
  released s x hs := by
    rcases endReset_cases s x with h | h
    · rwa [h]
    · exact hreset _ h
  queue s q hs := keeps_only H (by rw [co_iff]; simp [Block.same]) hs

/-- An invariant of the emptied part that every change keeps is kept by every step. -/
theorem step_keeps_of_changes (hreset : ∀ s : State, s.Emptied → P s) {s t : State} (hs : P s) (h : step s = .next t) :
    P t := (closed_of_changes H hreset).step s t hs h

end parts

end Sys2Proof.Machine
end

section
/-! PROOFS. Ownership and the lost lists: each change of what is held keeps them (R24, R93, R94, R107, R110, R129). -/

namespace Sys2Proof.Machine

open Sys2Proof

/-! ### Which session may hold what -/

/-- An output may be in this state with the sessions as they are (R129). -/
def State.mayBe (s : State) : OutState → Prop
  | .free => True
  | .owned p => s.isOpen p = true
  | .grace p _ => s.isLapsed p = true
  | .safeHeld p => s.live p

/-- Ownership in the terms of `live` and `mayBe`. -/
theorem owned_iff (s : State) : s.owned ↔ (∀ w ws, s.sets.at w = some ws → s.live ws.owner) ∧
    (∀ o, s.mayBe (s.outputs.at o).state) ∧ ∀ p, (s.sessions.at p).state = .closed →
      s.journals.at p = Journal.empty ∧ s.sessions.at p = Session.reset := Iff.rfl

/-- A session that is not CLOSED is OPEN or LAPSED (R93). -/
theorem live_iff (s : State) (p : Port) : s.live p ↔ s.isOpen p = true ∨ s.isLapsed p = true := by
  unfold State.live State.isOpen State.isLapsed
  rcases (s.sessions.at p).state with _ | _ | _ <;> simp [SessState.isOpen, SessState.isLapsed]

theorem live_of_open {s : State} {p : Port} (h : s.isOpen p = true) : s.live p := (live_iff s p).mpr (Or.inl h)

theorem live_of_lapsed {s : State} {p : Port} (h : s.isLapsed p = true) : s.live p := (live_iff s p).mpr (Or.inr h)

/-- An owned output has a session that is not CLOSED (R129). -/
theorem live_of_mayBe {s : State} {st : OutState} {p : Port} (h : s.mayBe st) (ho : st.owner = some p) : s.live p := by
  cases st with
  | free => simp [OutState.owner] at ho
  | owned q => obtain rfl := Option.some.inj ho; exact live_of_open h
  | grace q e => obtain rfl := Option.some.inj ho; exact live_of_lapsed h
  | safeHeld q => obtain rfl := Option.some.inj ho; exact h

/-- Under ownership a record is noted for a session that is not CLOSED. -/
theorem live_of_mayHold {s : State} (h : s.owned) {p : Port} (hp : s.mayHold p) : s.live p := by
  obtain ⟨-, houts, -⟩ := (owned_iff s).mp h
  rcases hp with hp | ⟨o, ho⟩
  · exact hp
  · exact live_of_mayBe (houts o) ho

/-- The two states agree on which sessions are OPEN and which are LAPSED. -/
def State.sameKinds (s t : State) : Prop := ∀ p, t.isOpen p = s.isOpen p ∧ t.isLapsed p = s.isLapsed p

theorem sameKinds_of_sessions {s t : State} (h : t.sessions = s.sessions) : s.sameKinds t := fun p => by
  simp [State.isOpen, State.isLapsed, h]

/-- A session record that stays OPEN, LAPSED or CLOSED. -/
theorem sameKinds_put {s t : State} {p : Port} {r : Session} (h : t.sessions = s.sessions.put p r)
    (hopen : r.state.isOpen = s.isOpen p) (hlapsed : r.state.isLapsed = s.isLapsed p) : s.sameKinds t := fun q => by
  unfold State.isOpen State.isLapsed at *
  by_cases hq : q = p
  · subst hq; simp [h, hopen, hlapsed]
  · simp [h, hq]

theorem live_sameKinds {s t : State} (h : s.sameKinds t) (p : Port) : t.live p ↔ s.live p := by
  rw [live_iff, live_iff, (h p).1, (h p).2]

theorem mayBe_sameKinds {s t : State} (h : s.sameKinds t) (st : OutState) : t.mayBe st ↔ s.mayBe st := by
  cases st with
  | free => exact Iff.rfl
  | owned p => simp [State.mayBe, (h p).1]
  | grace p e => simp [State.mayBe, (h p).2]
  | safeHeld p => exact live_sameKinds h p

/-- Ownership stays where no session is opened, lapses or closes, sets and outputs keep to those that may hold them, and a
CLOSED session gets nothing. -/
theorem owned_keep {s t : State} (h : s.owned) (hkinds : s.sameKinds t)
    (hsets : ∀ w ws, t.sets.at w = some ws → s.live ws.owner) (houts : ∀ o, s.mayBe (t.outputs.at o).state)
    (hclosed : ∀ p, ¬ s.live p → t.sessions.at p = s.sessions.at p ∧ t.journals.at p = s.journals.at p) : t.owned := by
  obtain ⟨-, -, hempty⟩ := (owned_iff s).mp h
  refine (owned_iff t).mpr ⟨fun w ws hw => (live_sameKinds hkinds _).mpr (hsets w ws hw),
    fun o => (mayBe_sameKinds hkinds _).mpr (houts o), fun p hp => ?_⟩
  have hdead : ¬ s.live p := fun hl => (live_sameKinds hkinds p).mpr hl hp
  obtain ⟨hsess, hjour⟩ := hclosed p hdead
  rw [hsess, hjour]
  exact hempty p (not_not.mp hdead)

/-- Ownership stays where sessions and outputs do and what changes in sets and journals belongs to sessions that are not
CLOSED. -/
theorem owned_keep_sets {s t : State} (h : s.owned) (hsess : t.sessions = s.sessions)
    (houts : ∀ o, (t.outputs.at o).state = (s.outputs.at o).state)
    (hsets : ∀ w ws, t.sets.at w = some ws → s.live ws.owner)
    (hjour : ∀ p, ¬ s.live p → t.journals.at p = s.journals.at p) : t.owned := by
  refine owned_keep h (sameKinds_of_sessions hsess) hsets (fun o => ?_) fun p hp => ⟨by rw [hsess], hjour p hp⟩
  rw [houts o]
  exact ((owned_iff s).mp h).2.1 o

/-- One set is written for a session that is not CLOSED. -/
theorem live_of_putSet {s : State} (h : s.owned) {w : SetId} {x : Option WatchSet} (hx : ∀ ws, x = some ws → s.live ws.owner)
    (v : SetId) (vs : WatchSet) (hv : (s.sets.put w x).at v = some vs) : s.live vs.owner := by
  by_cases hvw : v = w
  · subst hvw; exact hx vs (by simpa using hv)
  · exact ((owned_iff s).mp h).1 v vs (by simpa [hvw] using hv)

/-- A journal is written for a session that is not CLOSED. -/
theorem journal_of_dead {s : State} {p : Port} (hp : s.live p) (j : Journal) {q : Port} (hq : ¬ s.live q) :
    (s.journals.put p j).at q = s.journals.at q := by
  have hne : q ≠ p := fun h => hq (h ▸ hp)
  simp [hne]

/-! ### Ownership through a line event -/

theorem owned_putJournal {s : State} {p : Port} (hp : s.live p) (j : Journal) (h : s.owned) : (s.putJournal p j).owned :=
  owned_keep_sets h rfl (fun _ => rfl) (fun w ws hw => ((owned_iff s).mp h).1 w ws hw) fun _ hq => journal_of_dead hp j hq

theorem owned_putSet {s : State} {w : SetId} {x : Option WatchSet} (hx : ∀ ws, x = some ws → s.live ws.owner) (h : s.owned) :
    (s.putSet w x).owned :=
  owned_keep_sets h rfl (fun _ => rfl) (live_of_putSet h hx) fun _ _ => rfl

/-- A set record is written for a session that is not CLOSED. -/
theorem owned_putSome {s : State} {w : SetId} {ws : WatchSet} (hl : s.live ws.owner) (h : s.owned) :
    (s.putSet w (some ws)).owned := owned_putSet (fun _ e => Option.some.inj e ▸ hl) h

theorem owned_quiet {s t : State} (hq : s.SameHoldings t) (h : s.owned) : t.owned :=
  owned_keep_sets h hq.sessions hq.outputs (fun w ws hw => ((owned_iff s).mp h).1 w ws (hq.sets ▸ hw))
    fun p _ => by rw [hq.journals]

/-- A session record rewritten in its own state (R61, R69, R103, R110). -/
theorem owned_putSession {s : State} {p : Port} {r : Session} (hp : s.live p) (hopen : r.state.isOpen = s.isOpen p)
    (hlapsed : r.state.isLapsed = s.isLapsed p) (h : s.owned) : (s.putSession p r).owned := by
  obtain ⟨hsets, houts, -⟩ := (owned_iff s).mp h
  refine owned_keep h (sameKinds_put rfl hopen hlapsed) hsets houts fun q hq => ⟨?_, rfl⟩
  have hne : q ≠ p := fun e => hq (e ▸ hp)
  simp [hne]

theorem owned_raiseStatus {s : State} (p : Port) (h : s.owned) : (s.raiseStatus p).owned :=
  owned_quiet (sameHoldings_of_only (changesOnly_mono (raiseStatus_only s p) (by simp))) h

theorem owned_noteLoss {s : State} {p : Port} (hp : s.live p) (h : s.owned) : (s.noteLoss p).owned := by
  unfold State.noteLoss
  split
  · exact h
  · exact owned_raiseStatus p (owned_putSession hp rfl rfl h)

/-- Neighbours that hear of a line keep the ownership (R24, R129). -/
theorem owned_hearOwned : HearOwned State.owned where
  owned _ h := h
  append s p r _ hp _ _ _ h := owned_putJournal hp _ h
  overrun s w ws hs _ h :=
    owned_raiseStatus _ (owned_putSome (((owned_iff s).mp h).1 w ws hs) h)
  loss s p hp h := owned_noteLoss hp h
  absorb s w ws _ _ _ us hs _ _ _ _ h := owned_putJournal (((owned_iff s).mp h).1 w ws hs) _ h
  attend s w ws hs _ _ h :=
    owned_raiseStatus _ (owned_putSome (((owned_iff s).mp h).1 w ws hs) h)
  output s o v f h := owned_quiet (sameHoldings_putOutput rfl) h
  choice s n h := owned_quiet (sameHoldings_of_only (by rw [co_iff]; simp [Block.same])) h

theorem owned_takeLine {s : State} (l : LineId) (h : s.owned) : (s.takeLine l).owned :=
  owned_hearOwned.takeLine (fun s _ _ h => owned_keep_sets h rfl (fun _ => rfl) ((owned_iff s).mp h).1 fun _ _ => rfl) s l h

/-! ### Ownership through the opening, lapse and closing of a session -/

theorem owned_restartSilence {s : State} (p : Port) (h : s.owned) : (s.restartSilence p).owned := by
  rcases hst : (s.sessions.at p).state with _ | ⟨prm, e⟩ | _
  · simpa only [State.restartSilence, hst] using h
  · simp only [State.restartSilence, hst]
    refine owned_putSession ?_ ?_ ?_ h <;> simp [State.live, State.isOpen, State.isLapsed, hst, SessState.isOpen, SessState.isLapsed]
  · simpa only [State.restartSilence, hst] using h

/-- The outputs of the other session may be what they were (R129). -/
theorem mayBe_other {s t : State} {p : Port} {r : Session} (hsess : t.sessions = s.sessions.put p r) {st : OutState}
    (ho : st.owner ≠ some p) (h : s.mayBe st) : t.mayBe st := by
  cases st with
  | free => trivial
  | owned q =>
    have hne : q ≠ p := fun e => ho (by simp [OutState.owner, e])
    simpa [State.mayBe, State.isOpen, hsess, hne] using h
  | grace q e =>
    have hne : q ≠ p := fun e => ho (by simp [OutState.owner, e])
    simpa [State.mayBe, State.isLapsed, hsess, hne] using h
  | safeHeld q =>
    have hne : q ≠ p := fun e => ho (by simp [OutState.owner, e])
    simpa [State.mayBe, State.live, hsess, hne] using h

/-- A LAPSED session is not OPEN (R93). -/
theorem not_open_of_lapsed {s : State} {p : Port} (h : s.isLapsed p = true) : ¬ s.isOpen p = true := by
  rcases hst : (s.sessions.at p).state with _ | _ | _ <;>
    simp [State.isOpen, State.isLapsed, hst, SessState.isOpen, SessState.isLapsed] at h ⊢

/-- Ownership through the opening, resume, lapse or closing of session p. -/
theorem owned_session {s t : State} {p : Port} {r : Session} (h : s.owned) (hsess : t.sessions = s.sessions.put p r)
    (hsets : ∀ w ws, t.sets.at w = some ws → s.sets.at w = some ws ∧ (ws.owner = p → r.state ≠ .closed))
    (houts : ∀ o, t.mayBe (t.outputs.at o).state) (hjour : ∀ q, q ≠ p → t.journals.at q = s.journals.at q)
    (hclosed : r.state = .closed → t.journals.at p = Journal.empty ∧ r = Session.reset) : t.owned := by
  obtain ⟨ssets, -, sempty⟩ := (owned_iff s).mp h
  refine (owned_iff t).mpr ⟨fun w ws hw => ?_, houts, fun q hq => ?_⟩
  · obtain ⟨hs, hp⟩ := hsets w ws hw
    by_cases ho : ws.owner = p
    · simpa [State.live, hsess, ho] using hp ho
    · simpa [State.live, hsess, ho] using ssets w ws hs
  · rw [hsess] at hq ⊢
    by_cases hqp : q = p
    · subst hqp
      simpa using hclosed (by simpa using hq)
    · rw [hjour q hqp]
      simpa [hqp] using sempty q (by simpa [hqp] using hq)

/-- A teardown frees the sets of its session (R107). -/
theorem teardown_sets (s : State) (p : Port) (w : SetId) :
    (s.teardown p).sets.at w = (s.sets.at w).filter fun x => decide (x.owner ≠ p) := by
  simp [State.teardown, State.updateSets, State.updateOutputs]

/-- A released output may be FREE, and the outputs of the other session stay (R107). -/
theorem owned_teardown {s : State} (p : Port) (h : s.owned) : (s.teardown p).owned := by
  have hsess : (s.teardown p).sessions = s.sessions.put p Session.reset := rfl
  refine owned_session h hsess (fun w ws hw => ?_) (fun o => ?_) (fun q hq => by simp [State.teardown, hq])
    fun _ => ⟨by simp [State.teardown], rfl⟩
  · rw [teardown_sets] at hw
    obtain ⟨hs, ho⟩ := Option.filter_eq_some_iff.mp hw
    exact ⟨hs, fun e => absurd e (by simpa using ho)⟩
  · have hout : (s.teardown p).outputs.at o =
        if (s.outputs.at o).state.owner = some p then (s.outputs.at o).release else s.outputs.at o := by
      simp [State.teardown, State.updateSets, State.updateOutputs]
    rw [hout]
    split
    · rw [Output.release, become_state]; trivial
    · rename_i ho; exact mayBe_other hsess ho (((owned_iff s).mp h).2.1 o)

theorem owned_freshOpen {s : State} {p : Port} (prm : Params) (hst : (s.sessions.at p).state = .closed) (h : s.owned) :
    (s.freshOpen p prm).owned := by
  refine owned_session h rfl (fun w ws hw => ⟨hw, fun _ => by simp⟩) (fun o => ?_)
    (fun q hq => by simp [State.freshOpen, hq]) (by simp)
  have was := ((owned_iff s).mp h).2.1 o
  exact mayBe_other (p := p) rfl (fun ho => live_of_mayBe was ho hst) was

/-- What a resume makes of an output: GRACE becomes OWNED (R131). -/
theorem mayBe_resume {s t : State} {p : Port} {x : Session} (hsess : t.sessions = s.sessions.put p x)
    (hwas : s.isLapsed p = true) (hnow : t.isOpen p = true) {r : Output} (h : s.mayBe r.state) :
    t.mayBe (r.resume p).state := by
  have stays : r.state.owner ≠ some p → t.mayBe r.state := fun ho => mayBe_other hsess ho h
  rw [Output.resume_eq]
  cases hst : r.state with
  | free => dsimp only; rw [hst]; trivial
  | owned q =>
    refine stays fun ho => not_open_of_lapsed hwas ?_
    rw [hst] at ho h
    obtain rfl := Option.some.inj ho
    exact h
  | grace q e =>
    dsimp only
    split
    · exact hnow
    · rename_i hq; exact stays fun ho => hq (Option.some.inj (by rwa [hst] at ho))
  | safeHeld q =>
    by_cases hq : q = p
    · subst hq; dsimp only; rw [hst]; exact live_of_open hnow
    · exact stays fun ho => hq (Option.some.inj (by rwa [hst] at ho))

theorem owned_resume {s : State} {p : Port} (old new : Params) (hl : s.isLapsed p = true) (h : s.owned) :
    (s.resume p old new).owned := by
  have now : (s.resume p old new).isOpen p = true := by
    simp [State.resume, State.updateOutputs, State.isOpen, SessState.isOpen]
  refine owned_session h rfl (fun w ws hw => ⟨hw, fun _ => by simp⟩) (fun o => ?_)
    (fun q hq => by simp [State.resume, State.updateOutputs]) (by simp)
  have hout : (s.resume p old new).outputs.at o = (s.outputs.at o).resume p := by
    simp [State.resume, State.updateOutputs]
  rw [hout]
  exact mayBe_resume rfl hl now (((owned_iff s).mp h).2.1 o)

/-- What a lapse makes of an output: OWNED becomes GRACE or SAFE_HELD (R130). -/
theorem mayBe_lapse {s t : State} {p : Port} {x : Session} (hsess : t.sessions = s.sessions.put p x)
    (hwas : s.isOpen p = true) (hnow : t.isLapsed p = true) (now : Nat) {r : Output} (h : s.mayBe r.state) :
    t.mayBe (r.lapse p now).state := by
  unfold Output.lapse
  split
  · rw [become_state]
    dsimp only
    split
    · exact live_of_lapsed hnow
    · exact hnow
  · rename_i howned
    have stays : r.state.owner ≠ some p → t.mayBe r.state := fun ho => mayBe_other hsess ho h
    cases hst : r.state with
    | free => trivial
    | owned q => exact hst ▸ stays fun ho => howned (by rw [hst] at ho ⊢; rw [Option.some.inj ho])
    | grace q e =>
      refine hst ▸ stays fun ho => not_open_of_lapsed (p := p) ?_ hwas
      rw [hst] at ho h
      obtain rfl := Option.some.inj ho
      exact h
    | safeHeld q =>
      by_cases hq : q = p
      · exact hq ▸ live_of_lapsed hnow
      · exact hst ▸ stays fun ho => hq (Option.some.inj (by rwa [hst] at ho))

theorem owned_lapse {s : State} {p : Port} {prm : Params} {silence : Nat} (why : LapseReason)
    (hst : (s.sessions.at p).state = .opened prm silence) (hr : prm.retain ≠ 0) (h : s.owned) : (s.lapse p why).owned := by
  simp only [State.lapse, hst, if_neg hr]
  refine owned_session h rfl (fun w ws hw => ⟨hw, fun _ => by simp⟩) (fun o => ?_)
    (fun q hq => by simp [State.updateOutputs]) (by simp)
  simp only [State.updateOutputs_outputs, Tab.at_update, State.putEngine_outputs, State.putSession_outputs]
  exact mayBe_lapse rfl (by simp [State.isOpen, hst, SessState.isOpen])
    (by simp [State.updateOutputs, State.isLapsed, SessState.isLapsed]) _ (((owned_iff s).mp h).2.1 o)

/-! ### Every change keeps the ownership -/

theorem owned_outputs {s : State} {p : Port} {f : OutId → Output → Output} (hp : s.isOpen p = true)
    (hf : ∀ o r, (f o r).state = r.state ∨ (f o r).state = .free ∨ (f o r).state = .owned p) (h : s.owned) :
    (s.updateOutputs f).owned := by
  obtain ⟨hsets, houts, -⟩ := (owned_iff s).mp h
  refine owned_keep h (sameKinds_of_sessions rfl) hsets (fun o => ?_) fun _ _ => ⟨rfl, rfl⟩
  rw [State.updateOutputs_outputs, Tab.at_update]
  rcases hf o (s.outputs.at o) with e | e | e <;> rw [e]
  · exact houts o
  · trivial
  · exact hp

/-- The state of a claimed output (R132). -/
theorem claim_state (p : Port) (r : Output) : (r.claim p).state = r.state ∨ (r.claim p).state = .owned p := by
  rw [Output.claim_eq]
  split
  · exact Or.inr rfl
  · split
    · exact Or.inl rfl
    · exact Or.inr rfl

/-- A claim that takes outputs of the other session finds it LAPSED; any other leaves its lost list (R119). -/
theorem claim_cases {s : State} {p : Port} {named : List OutId}
    (hl : ∀ o ∈ named, (s.outputs.at o).state.owner = some p.other → s.isLapsed p.other = true) :
    let claimed := s.updateOutputs fun o r => if o ∈ named then r.claim p else r
    s.claim p named = claimed ∨ s.isLapsed p.other = true ∧ s.claim p named = claimed.putSession p.other
      { s.sessions.at p.other with
        lostOutputs := (s.takenOutputs p named).foldl (fun list o => insertAscending o list)
          (s.sessions.at p.other).lostOutputs } := by
  intro claimed
  rcases ht : s.takenOutputs p named with _ | ⟨o, os⟩
  · left
    simp only [State.claim, ht, List.foldl_nil]
    exact congrArg (fun x => { claimed with sessions := x }) (PerPort.put_at s.sessions p.other)
  · right
    have ho : o ∈ s.takenOutputs p named := by simp [ht]
    obtain ⟨hn, howner⟩ := List.mem_filter.mp ho
    refine ⟨hl o hn (by simpa using howner), ?_⟩
    rw [← ht]; rfl

theorem owned_claim {s : State} {p : Port} {named : List OutId} (hp : s.isOpen p = true)
    (hl : ∀ o ∈ named, (s.outputs.at o).state.owner = some p.other → s.isLapsed p.other = true) (h : s.owned) :
    (s.claim p named).owned := by
  have claimed : (s.updateOutputs fun o r => if o ∈ named then r.claim p else r).owned := by
    refine owned_outputs hp (fun o r => ?_) h
    split
    · exact (claim_state p r).imp_right Or.inr
    · exact Or.inl rfl
  rcases claim_cases hl with e | ⟨hlapsed, e⟩ <;> rw [e]
  · exact claimed
  · exact owned_putSession (live_of_lapsed hlapsed) rfl rfl claimed

/-- The end of a grace period makes a GRACE output SAFE_HELD (R130). -/
theorem owned_expireGrace {s : State} (o : OutId) (h : s.owned) : (s.expireGrace o).owned := by
  obtain ⟨hsets, houts, -⟩ := (owned_iff s).mp h
  refine owned_keep h (sameKinds_of_sessions rfl) hsets (fun i => ?_) fun _ _ => ⟨rfl, rfl⟩
  by_cases hi : i = o
  · subst hi
    have was := houts i
    simp only [State.expireGrace, State.putOutput_outputs, Tab.at_put_same, Output.endGrace]
    cases hst : (s.outputs.at i).state with
    | grace p e =>
      dsimp only
      split
      · rw [become_state]; rw [hst] at was; exact live_of_lapsed was
      · exact was
    | free => exact was
    | owned p => exact was
    | safeHeld p => exact was
  · simpa [State.expireGrace, hi] using houts i

/-- A journal in which a set is voided belongs to its owner (R66). -/
theorem owned_voidSet {s : State} {p : Port} (w : SetId) (hp : s.live p) (h : s.owned) : (s.voidSet p w).owned :=
  owned_putJournal hp _ h

theorem owned_adopt {s : State} {p : Port} {w : SetId} {ws : WatchSet} (hp : s.isOpen p = true)
    (hl : s.isLapsed p.other = true) (h : s.owned) : (s.adopt p w ws).owned := by
  have hlive := live_of_lapsed hl
  exact owned_raiseStatus p (owned_putSession hlive rfl rfl (owned_putSome (live_of_open hp) (owned_voidSet w hlive h)))

theorem owned_acknowledge {s : State} {p : Port} (d : Nat) (hp : s.isOpen p = true) (h : s.owned) :
    (s.acknowledge p d).owned := by
  unfold State.acknowledge
  dsimp only
  split
  · exact h
  · rw [foldl_foldRecord]
    refine owned_keep_sets h rfl (fun _ => rfl) (fun w ws hw => ?_) fun q hq => journal_of_dead (live_of_open hp) _ hq
    simp only [State.putEngine_sets, State.putJournal_sets, Tab.at_update, Option.map_eq_some_iff] at hw
    obtain ⟨x, hx, rfl⟩ := hw
    have := ((owned_iff s).mp h).1 w x hx
    split <;> exact this

/-- A journal that is not empty belongs to a session that is not CLOSED. -/
theorem owned_sent {s : State} {p : Port} {fresh : List Rec} (next : Seq) (hf : fresh <+: (s.journals.at p).unsent)
    (h : s.owned) : (s.putJournal p ((s.journals.at p).sendFresh next fresh)).owned := by
  by_cases hp : s.live p
  · exact owned_putJournal hp _ h
  · have hj : s.journals.at p = Journal.empty := (((owned_iff s).mp h).2.2 p (not_not.mp hp)).1
    have hnil : fresh = [] := by simpa [hj, Journal.empty] using hf
    have hsame : (s.journals.at p).sendFresh next fresh = s.journals.at p := by
      simp [hnil, hj, Journal.sendFresh, Journal.empty, number]
    rw [hsame]
    exact owned_quiet (s := s) ⟨rfl, rfl, PerPort.put_at s.journals p, rfl, fun _ => rfl⟩ h

theorem owned_configure {s : State} (f : LineId → LineRec → LineRec) (h : s.owned) : (s.updateLines f).owned :=
  owned_keep_sets h rfl (fun _ => rfl) ((owned_iff s).mp h).1 fun _ _ => rfl

/-- Every change keeps the ownership (R24, R94, R107, R129). -/
theorem change_keeps_owned (s t : State) (c : Change s t) (h : s.owned) : t.owned := by
  have owner : ∀ {w ws}, s.sets.at w = some ws → s.live ws.owner := fun hw => ((owned_iff s).mp h).1 _ _ hw
  cases c with
  | quiet hq => exact owned_quiet hq h
  | lossFlag flag hp => exact owned_putSession (live_of_mayHold h hp) rfl rfl h
  | silence p => exact owned_restartSilence p h
  | sessionRecord hp hr => exact owned_putJournal (live_of_mayHold h hp) _ h
  | line l => exact owned_takeLine l h
  | configure c hfree => exact owned_configure _ h
  | sent next hf => exact owned_sent next hf h
  | acknowledge d hp => exact owned_acknowledge d hp h
  | define mode hp hm hsorted hw =>
    exact owned_putSome (live_of_open hp) h
  | snap hs hk => have hl := owner hs; exact owned_putSome hl h
  | disarm hs => have hl := owner hs; exact owned_putSome hl (owned_voidSet _ hl h)
  | delete hs hi => exact owned_putSet (fun _ e => by simp at e) h
  | mark hs hu hm =>
    have hl := owner hs
    exact owned_putSome (s := State.append _ _ _) hl (owned_putJournal (s := s.putJournal _ _) hl _ (owned_putJournal hl _ h))
  | adopt hs ho hp hl => exact owned_adopt hp hl h
  | claim hp hl => exact owned_claim hp hl h
  | outputs hp hf => exact owned_outputs hp hf h
  | grace o => exact owned_expireGrace o h
  | teardown p => exact owned_teardown p h
  | freshOpen prm hst => exact owned_freshOpen prm hst h
  | resume old new hl => exact owned_resume old new hl h
  | lapse why hst hr => exact owned_lapse why hst hr h

/-- The emptied part is owned by nobody. -/
theorem emptied_owned {s : State} (h : s.Emptied) : s.owned :=
  (owned_iff s).mpr ⟨fun w ws hw => by simp [h.sets w] at hw, fun o => by rw [h.outputs o]; trivial,
    fun p _ => ⟨h.journals p, h.sessions p⟩⟩

/-! ### The lost lists -/

/-- The lost lists of one session are ascending, and empty outside LAPSED (R93, R110). -/
def Session.listed (x : Session) : Prop := x.lostSets.Pairwise (· < ·) ∧ x.lostOutputs.Pairwise (· < ·) ∧
  (x.state.isLapsed = false → x.lostSets = [] ∧ x.lostOutputs = [])

theorem lostListed_iff (s : State) : s.lostListed ↔ ∀ p, (s.sessions.at p).listed := Iff.rfl

/-- Empty lists are in order. -/
theorem listed_empty {x : Session} (hs : x.lostSets = []) (ho : x.lostOutputs = []) : x.listed := by
  simp [Session.listed, hs, ho]

theorem lostListed_same {s t : State} (hsess : t.sessions = s.sessions) (h : s.lostListed) : t.lostListed := by
  rw [lostListed_iff, hsess]; exact h

/-- One session record is written with its lists in order. -/
theorem lostListed_put {s t : State} {p : Port} {r : Session} (hsess : t.sessions = s.sessions.put p r) (hr : r.listed)
    (h : s.lostListed) : t.lostListed := by
  rw [lostListed_iff, hsess]
  intro q
  by_cases hq : q = p
  · subst hq; simpa using hr
  · rw [PerPort.at_put_ne _ _ hq]; exact h q

theorem lostListed_noteLoss {s : State} (p : Port) (h : s.lostListed) : (s.noteLoss p).lostListed := by
  unfold State.noteLoss
  split
  · exact h
  · exact lostListed_put rfl (h p) h

/-- Neighbours that hear of a line keep the lost lists: they note losses and no more. -/
theorem lostListed_hearClosed : HearClosed State.lostListed where
  append _ _ _ _ := lostListed_same rfl
  overrun _ _ _ _ := lostListed_same rfl
  loss _ p := lostListed_noteLoss p
  absorb _ _ _ _ := lostListed_same rfl
  attend _ _ _ _ := lostListed_same rfl
  output _ _ _ _ := lostListed_same rfl
  line _ _ _ := lostListed_same rfl
  choice _ _ := lostListed_same rfl

/-- A run of ascending insertions (R110). -/
theorem foldl_insertAscending_sorted {n : Nat} (xs ys : List (Fin n)) (h : ys.Pairwise (· < ·)) :
    (xs.foldl (fun list x => insertAscending x list) ys).Pairwise (· < ·) := by
  induction xs generalizing ys with
  | nil => exact h
  | cons x xs ih => exact ih _ (insertAscending_sorted x ys h)

theorem lostListed_claim {s : State} {p : Port} {named : List OutId}
    (hl : ∀ o ∈ named, (s.outputs.at o).state.owner = some p.other → s.isLapsed p.other = true) (h : s.lostListed) :
    (s.claim p named).lostListed := by
  rcases claim_cases hl with e | ⟨hlapsed, e⟩ <;> rw [e]
  · exact lostListed_same rfl h
  · obtain ⟨hsets, houts, -⟩ := h p.other
    refine lostListed_put rfl ⟨hsets, foldl_insertAscending_sorted _ _ houts, fun hn => ?_⟩ h
    exact absurd hlapsed (by simp only [State.isLapsed]; rw [hn]; simp)

theorem lostListed_adopt {s : State} {p : Port} {w : SetId} {ws : WatchSet} (hl : s.isLapsed p.other = true)
    (h : s.lostListed) : (s.adopt p w ws).lostListed := by
  obtain ⟨hsets, houts, -⟩ := h p.other
  refine lostListed_put (s := s) rfl ⟨insertAscending_sorted w _ hsets, houts, fun hn => ?_⟩ h
  exact absurd hl (by simp only [State.isLapsed]; rw [hn]; simp)

theorem lostListed_restartSilence {s : State} (p : Port) (h : s.lostListed) : (s.restartSilence p).lostListed := by
  obtain ⟨-, -, hempty⟩ := h p
  unfold State.restartSilence
  split
  · exact h
  · exact h
  · rename_i hst
    obtain ⟨hs, ho⟩ := hempty (by simp [State.isLapsed, hst, SessState.isLapsed])
    exact lostListed_put rfl (listed_empty hs ho) h

/-- A lapse leaves the lists of the OPEN session empty (R105). -/
theorem lostListed_lapse {s : State} {p : Port} {prm : Params} {silence : Nat} (why : LapseReason)
    (hst : (s.sessions.at p).state = .opened prm silence) (hr : prm.retain ≠ 0) (h : s.lostListed) :
    (s.lapse p why).lostListed := by
  obtain ⟨-, -, hempty⟩ := h p
  obtain ⟨hs, ho⟩ := hempty (by simp [State.isLapsed, hst, SessState.isLapsed])
  simp only [State.lapse, hst, if_neg hr]
  exact lostListed_put (s := s) rfl (listed_empty hs ho) h

theorem lostListed_acknowledge {s : State} (p : Port) (d : Nat) (h : s.lostListed) : (s.acknowledge p d).lostListed := by
  unfold State.acknowledge
  dsimp only
  split
  · exact h
  · rw [foldl_foldRecord]; exact lostListed_same rfl h

/-- Every change keeps the lost lists (R93, R110). -/
theorem change_keeps_lostListed (s t : State) (c : Change s t) (h : s.lostListed) : t.lostListed := by
  cases c with
  | quiet hq => exact lostListed_same hq.sessions h
  | lossFlag flag hp => exact lostListed_put rfl (h _) h
  | silence p => exact lostListed_restartSilence p h
  | line l => exact lostListed_hearClosed.takeLine s l h
  | acknowledge d hp => exact lostListed_acknowledge _ d h
  | adopt hs ho hp hl => exact lostListed_adopt hl h
  | claim hp hl => exact lostListed_claim hl h
  | teardown p => exact lostListed_put (s := s) rfl (listed_empty rfl rfl) h
  | freshOpen prm hst => exact lostListed_put (s := s) rfl (listed_empty rfl rfl) h
  | resume old new hl => exact lostListed_put (s := s) rfl (listed_empty rfl rfl) h
  | lapse why hst hr => exact lostListed_lapse why hst hr h
  | _ => exact lostListed_same (s := s) rfl h

/-- Settles O57: the changes that a step is made of keep the ownership and the lost lists. -/
theorem everyStepKeepsTheOwnership : Obligations.EveryStepKeepsTheOwnership :=
  ⟨fun _ _ => step_keeps_of_changes change_keeps_owned fun _ => emptied_owned,
    fun _ _ => step_keeps_of_changes change_keeps_lostListed fun s h =>
      (lostListed_iff s).mpr fun p => by rw [h.sessions p]; exact listed_empty rfl rfl⟩

end Sys2Proof.Machine
end

section
/-! PROOFS. Sets and journals fitted to each other: each change of what is held keeps them so (R23, R26, R43, R51, R57). -/

namespace Sys2Proof.Machine

open Sys2Proof

/-! ### The parts of the fit -/

/-- No UNSENT record is VOID, and none of a set stands in front of an UNSENT mark of it (R43, R57). -/
def Journal.ordered (j : Journal) : Prop := (∀ r ∈ j.unsent, r.body.isVoid = false) ∧
  j.unsent.Pairwise fun a b => ∀ w, b.body.levels? ≠ none → b.body.set? = some w → a.body.set? ≠ some w

/-- The fit in its three parts: sets, records and the order of each journal. -/
theorem fitted_iff (s : State) : s.fitted ↔ (∀ w ws, s.sets.at w = some ws → ws.sound s.level) ∧
    (∀ p, ∀ r ∈ (s.journals.at p).records, s.recordSound p r) ∧ ∀ p, (s.journals.at p).ordered := Iff.rfl

theorem mem_records (j : Journal) (r : Rec) : r ∈ j.records ↔ (∃ x ∈ j.inflight, x.entry = r) ∨ r ∈ j.unsent := by
  simp [Journal.records]

/-- A bound record that is not VOID tells of a record-mode set in use, which the journal's session owns (R57, R88). -/
theorem recordSound_set {s : State} {p : Port} {r : Rec} {w : SetId} {ws : WatchSet} (h : s.recordSound p r)
    (hw : r.body.set? = some w) (hv : r.body.isVoid = false) (hs : s.sets.at w = some ws) :
    ws.owner = p ∧ ws.inUse = true ∧ ws.mode ≠ .summary ∧ (∀ l, r.body.line? = some l → l ∈ ws.members) ∧
      ∀ n, r.body.levels? = some n → n = ws.members.length := by
  obtain ⟨vs, hvs, rest⟩ := h w hw hv
  obtain rfl := Option.some.inj (hs.symm.trans hvs)
  exact rest

/-- Every record of the set is VOID. -/
def State.allVoid (s : State) (w : SetId) : Prop :=
  ∀ p, ∀ r ∈ (s.journals.at p).records, r.body.set? = some w → r.body.isVoid = true

/-- A set that is FREE, IDLE or in SUMMARY mode has VOID records alone (R57). -/
theorem allVoid_of {s : State} (h : s.fitted) {w : SetId}
    (hw : ∀ ws, s.sets.at w = some ws → ws.phase = .idle ∨ ws.mode = .summary) : s.allVoid w := by
  intro p r hr hset
  obtain ⟨-, hrecords, -⟩ := (fitted_iff s).mp h
  by_contra hv
  obtain ⟨ws, hs, -, hu, hm, -⟩ := hrecords p r hr w hset (by simpa using hv)
  rcases hw ws hs with hi | hsum
  · exact (inUse_iff ws).mp hu hi
  · exact hm hsum

/-! ### Writes of one set, one journal, or the lines -/

/-- A new record for a set whose records are VOID. -/
theorem fitted_putSet_void {s : State} {w : SetId} {x : Option WatchSet} (hv : s.allVoid w)
    (hx : ∀ ws, x = some ws → ws.sound s.level) (h : s.fitted) : (s.putSet w x).fitted := by
  obtain ⟨hsets, hrecords, hord⟩ := (fitted_iff s).mp h
  refine (fitted_iff _).mpr ⟨fun v vs hvs => ?_, fun p r hr v hset hnv => ?_, hord⟩
  · by_cases hvw : v = w
    · subst hvw; exact hx vs (by simpa using hvs)
    · exact hsets v vs (by simpa [hvw] using hvs)
  · have hvw : v ≠ w := fun e => by
      have := hv p r hr (e ▸ hset)
      rw [hnv] at this
      contradiction
    obtain ⟨ws, hs, rest⟩ := hrecords p r hr v hset hnv
    exact ⟨ws, by simpa [hvw] using hs, rest⟩

/-- A set that keeps its owner, mode and members, and stays in use if it was, keeps its records (R51). -/
theorem fitted_putSet_like {s : State} {w : SetId} {ws vs : WatchSet} (hs : s.sets.at w = some ws)
    (ho : vs.owner = ws.owner) (hmode : vs.mode = ws.mode) (hmem : vs.members = ws.members)
    (hu : ws.inUse = true → vs.inUse = true) (hsound : vs.sound s.level) (h : s.fitted) :
    (s.putSet w (some vs)).fitted := by
  obtain ⟨hsets, hrecords, hord⟩ := (fitted_iff s).mp h
  refine (fitted_iff _).mpr ⟨fun v x hx => ?_, fun p r hr v hset hnv => ?_, hord⟩
  · by_cases hvw : v = w
    · subst hvw
      obtain rfl := Option.some.inj ((by simpa using hx) : some vs = some x)
      exact hsound
    · exact hsets v x (by simpa [hvw] using hx)
  · by_cases hvw : v = w
    · subst hvw
      obtain ⟨hp, huse, hm, hline, hlev⟩ := recordSound_set (hrecords p r hr) hset hnv hs
      exact ⟨vs, by simp, ho.trans hp, hu huse, hmode ▸ hm, hmem ▸ hline, hmem ▸ hlev⟩
    · obtain ⟨x, hx, rest⟩ := hrecords p r hr v hset hnv
      exact ⟨x, by simpa [hvw] using hx, rest⟩

/-- A journal whose records fit the sets. -/
theorem fitted_putJournal {s : State} {p : Port} {j : Journal} (hr : ∀ r ∈ j.records, s.recordSound p r) (hj : j.ordered)
    (h : s.fitted) : (s.putJournal p j).fitted := by
  obtain ⟨hsets, hrecords, hord⟩ := (fitted_iff s).mp h
  refine (fitted_iff _).mpr ⟨hsets, fun q r hrq => ?_, fun q => ?_⟩
  · by_cases hq : q = p
    · subst hq; exact hr r (by simpa using hrq)
    · exact hrecords q r (by simpa [hq] using hrq)
  · by_cases hq : q = p
    · subst hq; simpa using hj
    · simpa [hq] using hord q

/-- The fit stays where sets and journals do and no member of a set in use loses its D (R18). -/
theorem fitted_level {s t : State} (hsets : t.sets = s.sets) (hjour : t.journals = s.journals)
    (hl : ∀ w ws, s.sets.at w = some ws → ws.inUse = true → ∀ l ∈ ws.members, s.level l ≠ none → t.level l ≠ none)
    (h : s.fitted) : t.fitted := by
  obtain ⟨hs, hrecords, hord⟩ := (fitted_iff s).mp h
  refine (fitted_iff t).mpr ⟨fun w ws hw => ?_, fun p r hr w hset hnv => ?_, fun p => hjour ▸ hord p⟩
  · rw [hsets] at hw
    obtain ⟨hne, hsorted, hlen, hatt, hu⟩ := hs w ws hw
    exact ⟨hne, hsorted, hlen, hatt, fun huse => ⟨(hu huse).1, fun l hm => hl w ws hw huse l hm ((hu huse).2 l hm)⟩⟩
  · rw [hjour] at hr
    rw [hsets]
    exact hrecords p r hr w hset hnv

theorem fitted_same {s t : State} (hl : t.level = s.level) (hsets : t.sets = s.sets) (hjour : t.journals = s.journals)
    (h : s.fitted) : t.fitted := fitted_level hsets hjour (fun _ _ _ _ _ _ hk => hl ▸ hk) h

/-- Levels, sets and journals stay where the lines, sets and journals do. -/
theorem unheld_of_only {s t : State}
    (h : s.changesOnly [.clock, .reset, .outputs, .sessions, .engines, .ports, .orders, .queue] t) :
    t.level = s.level ∧ t.sets = s.sets ∧ t.journals = s.journals :=
  ⟨level_of_lines (h .lines (by simp)), h .sets (by simp), h .journals (by simp)⟩

theorem restartSilence_only (s : State) (p : Port) : s.changesOnly [.sessions] (s.restartSilence p) := by
  unfold State.restartSilence
  split
  · exact changesOnly_refl _ _
  · exact changesOnly_refl _ _
  · rw [co_iff]; simp [Block.same]

/-- A lapse that is no teardown leaves sets and journals alone (R105). -/
theorem lapse_retained_only {s : State} {p : Port} {prm : Params} {silence : Nat} (why : LapseReason)
    (hst : (s.sessions.at p).state = .opened prm silence) (hr : prm.retain ≠ 0) :
    s.changesOnly [.sessions, .engines, .outputs] (s.lapse p why) := by
  rw [State.lapse_eq hst, State.lapsedFrom, if_neg hr, co_iff]
  simp [Block.same]

theorem fitted_of_only {s t : State}
    (h : s.changesOnly [.clock, .reset, .outputs, .sessions, .engines, .ports, .orders, .queue] t) (hf : s.fitted) :
    t.fitted := by
  obtain ⟨hl, hsets, hjour⟩ := unheld_of_only h
  exact fitted_same hl hsets hjour hf

/-! ### What the operations on a journal do to its order and its records -/

theorem ordered_sublist {j k : Journal} (hs : k.unsent.Sublist j.unsent) (h : j.ordered) : k.ordered :=
  ⟨fun r hr => h.1 r (hs.subset hr), h.2.sublist hs⟩

theorem ordered_append {j : Journal} {r : Rec} (hv : r.body.isVoid = false)
    (hr : ∀ a ∈ j.unsent, ∀ w, r.body.levels? ≠ none → r.body.set? = some w → a.body.set? ≠ some w) (h : j.ordered) :
    Journal.ordered { j with unsent := j.unsent ++ [r] } := by
  refine ⟨fun a ha => ?_, ?_⟩
  · rcases List.mem_append.mp ha with ha | ha
    · exact h.1 a ha
    · rw [List.mem_singleton.mp ha]; exact hv
  · exact List.pairwise_append.mpr ⟨h.2, List.pairwise_singleton _ _, fun a ha b hb => List.mem_singleton.mp hb ▸ hr a ha⟩

theorem mem_records_append (j : Journal) (r a : Rec) :
    a ∈ Journal.records { j with unsent := j.unsent ++ [r] } ↔ a ∈ j.records ∨ a = r := by
  simp [Journal.records, or_assoc]

/-- A record joins the journal of a session: it fits the sets, and a mark finds no UNSENT record of its set (R43). -/
theorem fitted_append {s : State} {p : Port} {r : Rec} (hr : s.recordSound p r) (hv : r.body.isVoid = false)
    (hmark : ∀ a ∈ (s.journals.at p).unsent, ∀ w, r.body.levels? ≠ none → r.body.set? = some w → a.body.set? ≠ some w)
    (h : s.fitted) : (s.append p r).fitted := by
  obtain ⟨-, hrecords, hord⟩ := (fitted_iff s).mp h
  refine fitted_putJournal (fun a ha => ?_) (ordered_append hv hmark (hord p)) h
  rcases (mem_records_append _ _ _).mp ha with ha | rfl
  · exact hrecords p a ha
  · exact hr

/-- A set is voided in a journal (R66). -/
theorem fitted_voidSet {s : State} (p : Port) (w : SetId) (h : s.fitted) : (s.voidSet p w).fitted := by
  obtain ⟨-, hrecords, hord⟩ := (fitted_iff s).mp h
  refine fitted_putJournal (fun r hr => ?_) (ordered_sublist List.filter_sublist (hord p)) h
  rcases void_records hr with ⟨hr, -⟩ | hvoid
  · exact hrecords p r hr
  · intro v _ hnv; simp [hvoid, RecBody.isVoid] at hnv

/-- A set that its owner has voided has VOID records alone (R57). -/
theorem allVoid_voidSet {s : State} {w : SetId} {ws : WatchSet} (hs : s.sets.at w = some ws) (h : s.fitted) :
    (s.voidSet ws.owner w).allVoid w := by
  obtain ⟨-, hrecords, -⟩ := (fitted_iff s).mp h
  intro p r hr hset
  by_cases hp : p = ws.owner
  · subst hp
    have hr : r ∈ (((s.journals.at ws.owner).dropUnsentOf w).voidInflightOf w).records := by
      simpa [State.voidSet] using hr
    rcases void_records hr with ⟨-, hne⟩ | hvoid
    · exact absurd hset hne
    · simp [hvoid, RecBody.isVoid]
  · have hr : r ∈ (s.journals.at p).records := by simpa [State.voidSet, hp] using hr
    by_contra hnv
    exact hp (recordSound_set (hrecords p r hr) hset (by simpa using hnv) hs).1.symm

/-- The records of a notice sent for the first time stay in their places (R77). -/
theorem records_sendFresh {j : Journal} {fresh : List Rec} (next : Sys2Proof.Seq) (hf : fresh <+: j.unsent) :
    (j.sendFresh next fresh).records = j.records := by
  obtain ⟨rest, hrest⟩ := hf
  simp [Journal.records, Journal.sendFresh, number_entries, ← hrest]

theorem fitted_sent {s : State} {p : Port} {fresh : List Rec} (next : Sys2Proof.Seq)
    (hf : fresh <+: (s.journals.at p).unsent) (h : s.fitted) :
    (s.putJournal p ((s.journals.at p).sendFresh next fresh)).fitted := by
  obtain ⟨-, hrecords, hord⟩ := (fitted_iff s).mp h
  refine fitted_putJournal (fun r hr => ?_) (ordered_sublist (List.drop_sublist _ _) (hord p)) h
  rw [records_sendFresh next hf] at hr
  exact hrecords p r hr

/-! ### A LATEST update -/

/-- A CHANGE record is bound to its set and line, and is neither VOID nor a mark. -/
theorem change_bound {w : SetId} {l : LineId} {r : Rec} (h : r.isChangeOf w l = true) : r.body.set? = some w ∧
    r.body.line? = some l ∧ r.body.isVoid = false ∧ r.body.levels? = none := by
  obtain ⟨v, f, hb⟩ := (isChangeOf_iff w l r).mp h
  rw [hb]
  exact ⟨rfl, rfl, rfl, rfl⟩

/-- An updated record is still a CHANGE record of its set and line, wherever it stands (R28). -/
theorem isChangeOf_absorb {w : SetId} {l : LineId} {r : Rec} (level : Bool) (stamp : Time) (behind : List Rec)
    (h : r.isChangeOf w l = true) : (r.absorb level stamp).isChangeOf w l = true ∧
      ((r.absorb level stamp).movedPast behind).isChangeOf w l = true := by
  obtain ⟨f, hb⟩ := absorb_body (level := level) (stamp := stamp) h
  exact ⟨(isChangeOf_iff _ _ _).mpr ⟨_, _, hb⟩, (isChangeOf_iff _ _ _).mpr ⟨level, f, hb⟩⟩

/-- What a LATEST update leaves is UNSENT records and one CHANGE record (R28). -/
theorem mem_absorbed {w : SetId} {l : LineId} {level : Bool} {stamp : Time} {us vs : List Rec}
    (h : absorbChange w l level stamp us = some vs) {a : Rec} (ha : a ∈ vs) : a ∈ us ∨ a.isChangeOf w l = true := by
  obtain ⟨before, behind, r, rfl, -, hr, ⟨-, rfl⟩ | ⟨-, rfl⟩⟩ := absorb_split h
  · rcases List.mem_append.mp ha with ha | ha
    · exact Or.inl (by simp [ha])
    · rcases List.mem_cons.mp ha with rfl | ha
      · exact Or.inr (isChangeOf_absorb level stamp behind hr).1
      · exact Or.inl (by simp [ha])
  · rcases List.mem_append.mp ha with ha | ha
    · left; rcases List.mem_append.mp ha with ha | ha <;> simp [ha]
    · exact List.mem_singleton.mp ha ▸ Or.inr (isChangeOf_absorb level stamp behind hr).2

/-- A LATEST update keeps the order of a journal: a record of the set moves to the end, or stays where one stood (R29, R43). -/
theorem ordered_absorb {j : Journal} {w : SetId} {l : LineId} {level : Bool} {stamp : Time} {us : List Rec}
    (ha : absorbChange w l level stamp j.unsent = some us) (h : j.ordered) : Journal.ordered { j with unsent := us } := by
  refine ⟨fun a hm => ?_, ?_⟩
  · rcases mem_absorbed ha hm with hm | hc
    · exact h.1 a hm
    · exact (change_bound hc).2.2.1
  · obtain ⟨-, hord⟩ := h
    obtain ⟨before, behind, r, hj, -, hr, hus⟩ := absorb_split ha
    rw [hj, List.pairwise_append, List.pairwise_cons] at hord
    obtain ⟨hbefore, ⟨hrb, hbehind⟩, hbb⟩ := hord
    have ⟨hset, _, _, _⟩ := change_bound hr
    rcases hus with ⟨-, rfl⟩ | ⟨-, rfl⟩
    · obtain ⟨hset', -, -, hlev'⟩ := change_bound (isChangeOf_absorb level stamp behind hr).1
      refine List.pairwise_append.mpr ⟨hbefore, List.pairwise_cons.mpr ⟨fun b hb v hl hv => ?_, hbehind⟩, fun a ha b hb => ?_⟩
      · rw [hset', ← hset]; exact hrb b hb v hl hv
      · rcases List.mem_cons.mp hb with rfl | hb
        · intro v hl; exact absurd hlev' hl
        · exact hbb a ha b (List.mem_cons_of_mem _ hb)
    · obtain ⟨-, -, -, hlev'⟩ := change_bound (isChangeOf_absorb level stamp behind hr).2
      refine List.pairwise_append.mpr ⟨List.pairwise_append.mpr ⟨hbefore, hbehind, fun a ha b hb => ?_⟩,
        List.pairwise_singleton _ _, fun a _ b hb v hl => ?_⟩
      · exact hbb a ha b (List.mem_cons_of_mem _ hb)
      · rw [List.mem_singleton.mp hb] at hl; exact absurd hlev' hl

theorem fitted_absorb {s : State} {w : SetId} {ws : WatchSet} {l : LineId} {level : Bool} {stamp : Time} {us : List Rec}
    (hs : s.sets.at w = some ws) (hp : ws.phase = .armed) (hm : ws.mode = .latest) (hl : l ∈ ws.members)
    (ha : absorbChange w l level stamp (s.journals.at ws.owner).unsent = some us) (h : s.fitted) :
    (s.putJournal ws.owner { s.journals.at ws.owner with unsent := us }).fitted := by
  obtain ⟨-, hrecords, hord⟩ := (fitted_iff s).mp h
  refine fitted_putJournal (fun r hr => ?_) (ordered_absorb ha (hord _)) h
  rcases (mem_records _ _).mp hr with hr | hr
  · exact hrecords _ r ((mem_records _ _).mpr (Or.inl hr))
  · rcases mem_absorbed ha hr with hr | hc
    · exact hrecords _ r ((mem_records _ _).mpr (Or.inr hr))
    · obtain ⟨hset, hline, -, hlev⟩ := change_bound hc
      intro v hv _
      obtain rfl := Option.some.inj (hset.symm.trans hv)
      refine ⟨ws, hs, rfl, (inUse_iff ws).mpr (by simp [hp]), by simp [hm], fun m e => ?_, fun n e => ?_⟩
      · obtain rfl := Option.some.inj (hline.symm.trans e); exact hl
      · rw [hlev] at e; contradiction

/-! ### Acknowledged records -/

/-- The set w once records that session p has acknowledged are folded into it (R88). -/
def WatchSet.folded (p : Port) (w : SetId) (removed : List Rec) (ws : WatchSet) : WatchSet :=
  if ws.owner = p ∧ ws.phase ≠ .idle then
    { ws with snapshot := folds ws.members (removed.filter (Rec.ofSet w)) ws.snapshot }
  else ws

theorem folded_owner (p : Port) (w : SetId) (removed : List Rec) (ws : WatchSet) :
    (ws.folded p w removed).owner = ws.owner := by unfold WatchSet.folded; split <;> rfl

theorem folded_mode (p : Port) (w : SetId) (removed : List Rec) (ws : WatchSet) :
    (ws.folded p w removed).mode = ws.mode := by unfold WatchSet.folded; split <;> rfl

theorem folded_members (p : Port) (w : SetId) (removed : List Rec) (ws : WatchSet) :
    (ws.folded p w removed).members = ws.members := by unfold WatchSet.folded; split <;> rfl

theorem folded_phase (p : Port) (w : SetId) (removed : List Rec) (ws : WatchSet) :
    (ws.folded p w removed).phase = ws.phase := by unfold WatchSet.folded; split <;> rfl

theorem folded_inUse (p : Port) (w : SetId) (removed : List Rec) (ws : WatchSet) :
    (ws.folded p w removed).inUse = ws.inUse := by simp only [WatchSet.inUse, folded_phase]

/-- Without a record nothing is folded. -/
theorem folded_nil (p : Port) (w : SetId) (ws : WatchSet) : ws.folded p w [] = ws := by
  unfold WatchSet.folded; split <;> rfl

/-- The records that an ACK through d behind the last number sent removes (R87). -/
def State.acked (s : State) (p : Port) (d : Nat) : List Rec :=
  ((s.journals.at p).inflight.take ((s.journals.at p).inflight.length - d)).map Sent.entry

/-- The journal that such an ACK leaves (R87). -/
def State.unacked (s : State) (p : Port) (d : Nat) : Journal :=
  { s.journals.at p with inflight := (s.journals.at p).inflight.drop ((s.journals.at p).inflight.length - d) }

theorem acknowledge_sets (s : State) (p : Port) (d : Nat) (w : SetId) :
    (s.acknowledge p d).sets.at w = (s.sets.at w).map (WatchSet.folded p w (s.acked p d)) := by
  unfold State.acknowledge State.acked
  dsimp only
  split
  · rename_i h
    have hid : WatchSet.folded p w [] = id := funext (folded_nil p w)
    simp [List.isEmpty_iff.mp h, hid]
  · rw [foldl_foldRecord]
    simp only [State.putEngine_sets, State.putJournal_sets, Tab.at_update]
    rfl

theorem acknowledge_journals (s : State) (p : Port) (d : Nat) :
    (s.acknowledge p d).journals = s.journals.put p (s.unacked p d) := by
  unfold State.acknowledge State.unacked
  dsimp only
  split
  · rename_i h
    have hnil := List.isEmpty_iff.mp h
    have hall := List.take_append_drop ((s.journals.at p).inflight.length - d) (s.journals.at p).inflight
    rw [hnil, List.nil_append] at hall
    rw [hall, PerPort.put_at]
  · rw [foldl_foldRecord]; rfl

theorem acknowledge_level (s : State) (p : Port) (d : Nat) : (s.acknowledge p d).level = s.level := by
  unfold State.acknowledge
  dsimp only
  split
  · rfl
  · rw [foldl_foldRecord]; rfl

/-- The removed records and those left are the records of the journal (R87). -/
theorem acked_append_unacked (s : State) (p : Port) (d : Nat) :
    s.acked p d ++ (s.unacked p d).records = (s.journals.at p).records := by
  simp only [State.acked, State.unacked, Journal.records]
  rw [← List.append_assoc, ← List.map_append, List.take_append_drop]

/-- Folds keep a snapshot present, with one level for each member (R23, R54). -/
theorem folds_length {ms : List LineId} (rs : List Rec) (hr : ∀ r ∈ rs, ∀ n, r.body.levels? = some n → n = ms.length)
    (sn : Option (List Bool)) (hs : ∀ x, sn = some x → x.length = ms.length) :
    (∀ x, folds ms rs sn = some x → x.length = ms.length) ∧ (sn ≠ none → folds ms rs sn ≠ none) := by
  induction rs generalizing sn with
  | nil => exact ⟨hs, id⟩
  | cons r rs ih =>
    have one : (∀ x, r.body.fold ms sn = some x → x.length = ms.length) ∧ (sn ≠ none → r.body.fold ms sn ≠ none) := by
      have fits := hr r (List.mem_cons_self ..)
      cases hb : r.body with
      | change w l v f =>
        cases sn with
        | none => simp [RecBody.fold]
        | some y => simp [RecBody.fold, foldLevel_length ms l v y (hs y rfl)]
      | chatterEnd w l v =>
        cases sn with
        | none => simp [RecBody.fold]
        | some y => simp [RecBody.fold, foldLevel_length ms l v y (hs y rfl)]
      | resyncMark w levels => simpa [RecBody.fold, hb, RecBody.levels?] using fits
      | chatterStart w l v => exact ⟨hs, id⟩
      | outputFault o a b => exact ⟨hs, id⟩
      | timeMark a b => exact ⟨hs, id⟩
      | void w => exact ⟨hs, id⟩
    obtain ⟨hlen, hsome⟩ := ih (fun r' h' => hr r' (List.mem_cons_of_mem _ h')) (r.body.fold ms sn) one.1
    exact ⟨hlen, fun h => hsome (one.2 h)⟩

theorem sound_folded {level : LineId → Option Bool} {p : Port} {w : SetId} {removed : List Rec} {ws : WatchSet}
    (hr : ∀ r ∈ removed, r.body.set? = some w → ∀ n, r.body.levels? = some n → n = ws.members.length)
    (h : ws.sound level) : (ws.folded p w removed).sound level := by
  unfold WatchSet.folded
  split
  · obtain ⟨hne, hsorted, hlen, hatt, hu⟩ := h
    obtain ⟨hlen', hsome⟩ := folds_length (removed.filter (Rec.ofSet w)) (fun r hm =>
      hr r (List.mem_filter.mp hm).1 (by simpa [Rec.ofSet] using (List.mem_filter.mp hm).2)) ws.snapshot hlen
    exact ⟨hne, hsorted, hlen', hatt, fun huse => ⟨hsome (hu huse).1, (hu huse).2⟩⟩
  · exact h

theorem fitted_acknowledge {s : State} (p : Port) (d : Nat) (h : s.fitted) : (s.acknowledge p d).fitted := by
  obtain ⟨hsets, hrecords, hord⟩ := (fitted_iff s).mp h
  have hall := acked_append_unacked s p d
  have left : ∀ q, ∀ r ∈ ((s.acknowledge p d).journals.at q).records, r ∈ (s.journals.at q).records := by
    intro q r hr
    rw [acknowledge_journals] at hr
    by_cases hq : q = p
    · subst hq; rw [← hall]; exact List.mem_append_right _ (by simpa using hr)
    · simpa [hq] using hr
  refine (fitted_iff _).mpr ⟨fun w vs hv => ?_, fun q r hr w hset hnv => ?_, fun q => ?_⟩
  · rw [acknowledge_sets, Option.map_eq_some_iff] at hv
    obtain ⟨ws, hs, rfl⟩ := hv
    rw [acknowledge_level]
    refine sound_folded (fun r hr hset n hn => ?_) (hsets w ws hs)
    have hrec := hrecords p r (hall ▸ List.mem_append_left _ hr)
    have hnv : r.body.isVoid = false := by
      cases hb : r.body <;> simp [hb, RecBody.levels?, RecBody.isVoid] at hn ⊢
    exact (recordSound_set hrec hset hnv hs).2.2.2.2 n hn
  · obtain ⟨ws, hs, ho, hu, hm, hline, hlev⟩ := hrecords q r (left q r hr) w hset hnv
    refine ⟨ws.folded p w (s.acked p d), by rw [acknowledge_sets, hs]; rfl, ?_⟩
    rw [folded_owner, folded_inUse, folded_mode, folded_members]
    exact ⟨ho, hu, hm, hline, hlev⟩
  · rw [acknowledge_journals]
    by_cases hq : q = p
    · subst hq; simpa using ordered_sublist (k := s.unacked q d) (List.Sublist.refl _) (hord q)
    · simpa [hq] using hord q

/-! ### The other changes -/

/-- A set that keeps its members and its snapshot, and comes into use only if it was. -/
theorem sound_like {level : LineId → Option Bool} {ws vs : WatchSet} (hmem : vs.members = ws.members)
    (hsnap : vs.snapshot = ws.snapshot) (hatt : vs.attention = true → vs.mode = .summary)
    (hu : vs.inUse = true → ws.inUse = true) (h : ws.sound level) : vs.sound level := by
  obtain ⟨hne, hsorted, hlen, -, huse⟩ := h
  rw [WatchSet.sound, hmem, hsnap]
  exact ⟨hne, hsorted, hlen, hatt, fun hv => huse (hu hv)⟩

/-- A snapshot taken of known levels (R37). -/
theorem sound_snap {s : State} {ws : WatchSet} (hk : ∀ l ∈ ws.members, s.level l ≠ none) (h : ws.sound s.level) :
    WatchSet.sound s.level { ws with snapshot := some (s.memberLevels ws), phase := .armed, attention := false } := by
  obtain ⟨hne, hsorted, -, -, -⟩ := h
  refine ⟨hne, hsorted, fun x hx => ?_, by simp, fun _ => ⟨by simp, hk⟩⟩
  obtain rfl := Option.some.inj hx
  simp [State.memberLevels]

theorem sound_defined {level : LineId → Option Bool} {p : Port} {mode : SetMode} {members : List LineId}
    (hm : members ≠ []) (hsorted : members.Pairwise (· < ·)) : (defined p mode members).sound level :=
  ⟨hm, hsorted, by simp [defined], by simp [defined], by simp [defined, WatchSet.inUse]⟩

theorem levelsKnown_iff (s : State) (ws : WatchSet) : s.levelsKnown ws = true ↔ ∀ l ∈ ws.members, s.level l ≠ none := by
  simp [State.levelsKnown, Option.isSome_iff_ne_none]

theorem fitted_snap {s : State} {w : SetId} {ws : WatchSet} (hs : s.sets.at w = some ws)
    (hk : ws.phase = .idle ∧ s.levelsKnown ws = true ∨ ws.mode = .summary ∧ ws.phase ≠ .idle) (h : s.fitted) :
    (s.snapSet w ws).state.fitted := by
  have hsound := ((fitted_iff s).mp h).1 w ws hs
  have known : ∀ l ∈ ws.members, s.level l ≠ none := by
    rcases hk with ⟨-, hk⟩ | ⟨-, hu⟩
    · exact (levelsKnown_iff s ws).mp hk
    · exact (hsound.2.2.2.2 ((inUse_iff ws).mpr hu)).2
  refine fitted_putSet_void (allVoid_of h fun vs hv => ?_) (fun vs hv => ?_) h
  · obtain rfl := Option.some.inj (hs.symm.trans hv)
    exact hk.imp And.left And.left
  · exact Option.some.inj hv ▸ sound_snap known hsound

theorem fitted_disarm {s : State} {w : SetId} {ws : WatchSet} (hs : s.sets.at w = some ws) (h : s.fitted) :
    ((s.voidSet ws.owner w).putSet w (some { ws with phase := .idle, attention := false })).fitted := by
  refine fitted_putSet_void (allVoid_voidSet hs h) (fun vs hv => ?_) (fitted_voidSet _ w h)
  obtain rfl := Option.some.inj hv
  exact sound_like (ws := ws) rfl rfl (by simp) (by simp [WatchSet.inUse]) (((fitted_iff s).mp h).1 w ws hs)

theorem fitted_adopt {s : State} {p : Port} {w : SetId} {ws : WatchSet} (hs : s.sets.at w = some ws)
    (ho : ws.owner = p.other) (h : s.fitted) : (s.adopt p w ws).fitted := by
  obtain ⟨hsets, -, -⟩ := (fitted_iff s).mp h
  have moved : ((s.voidSet p.other w).putSet w (some { ws with owner := p, phase := ws.phase.adopt })).fitted := by
    rw [← ho]
    refine fitted_putSet_void (allVoid_voidSet hs h) (fun vs hv => ?_) (fitted_voidSet _ w h)
    obtain rfl := Option.some.inj hv
    refine sound_like (ws := ws) rfl rfl (hsets w ws hs).2.2.2.1 (fun hu => ?_) (hsets w ws hs)
    rw [inUse_iff] at hu ⊢
    exact fun hi => hu (by simp only [hi, SetPhase.adopt])
  exact fitted_same rfl rfl rfl moved

/-- The UNSENT records of a set leave the journal (R66). -/
theorem fitted_dropUnsent {s : State} (p : Port) (w : SetId) (h : s.fitted) :
    (s.putJournal p ((s.journals.at p).dropUnsentOf w)).fitted := by
  obtain ⟨-, hrecords, hord⟩ := (fitted_iff s).mp h
  refine fitted_putJournal (fun r hr => hrecords p r ?_) (ordered_sublist List.filter_sublist (hord p)) h
  rw [mem_records] at hr ⊢
  exact hr.imp_right fun hm => (List.mem_filter.mp hm).1

theorem fitted_mark {s : State} {w : SetId} {ws : WatchSet} (hs : s.sets.at w = some ws) (hu : ws.phase ≠ .idle)
    (hm : ws.mode ≠ .summary) (h : s.fitted) :
    (((s.putJournal ws.owner ((s.journals.at ws.owner).dropUnsentOf w)).append ws.owner (s.resyncMark w ws)).putSet w
      (some { ws with phase := .armed })).fitted := by
  obtain ⟨hsets, -, -⟩ := (fitted_iff s).mp h
  have hmark : (s.putJournal ws.owner ((s.journals.at ws.owner).dropUnsentOf w)).recordSound ws.owner (s.resyncMark w ws) := by
    intro v hv _
    obtain rfl : w = v := Option.some.inj hv
    refine ⟨ws, hs, rfl, (inUse_iff ws).mpr hu, hm, by simp [State.resyncMark, RecBody.line?], fun n hn => ?_⟩
    simpa [State.resyncMark, RecBody.levels?, State.memberLevels, eq_comm] using hn
  have marked := fitted_append hmark rfl (fun a ha v _ hv => ?_) (fitted_dropUnsent ws.owner w h)
  · refine fitted_putSet_like (ws := ws) hs rfl rfl rfl (fun _ => rfl) ?_ marked
    exact sound_like (ws := ws) rfl rfl (hsets w ws hs).2.2.2.1 (fun _ => (inUse_iff ws).mpr hu) (hsets w ws hs)
  · obtain rfl : w = v := Option.some.inj hv
    have ha : a ∈ ((s.journals.at ws.owner).dropUnsentOf w).unsent := by simpa using ha
    simpa [Rec.ofSet] using (List.mem_filter.mp ha).2

theorem fitted_configure {s : State} {named : LineId → Bool} (c : LineConfig) (hfree : ∀ l, named l = true → ¬ s.watches l)
    (h : s.fitted) : (s.updateLines fun l r => if named l then r.configure c else r).fitted := by
  refine fitted_level (s := s) rfl rfl (fun w ws hs hu l hl hk => ?_) h
  have hn : ¬ named l = true := fun hn => hfree l hn ⟨w, ws, hs, (inUse_iff ws).mp hu, hl⟩
  simpa [State.level, hn] using hk

/-- The sets of a torn-down session and its records go together (R107). -/
theorem fitted_teardown {s : State} (p : Port) (h : s.fitted) : (s.teardown p).fitted := by
  obtain ⟨hsets, hrecords, hord⟩ := (fitted_iff s).mp h
  have hset := teardown_sets s p
  have hjour : (s.teardown p).journals = s.journals.put p Journal.empty := rfl
  refine (fitted_iff _).mpr ⟨fun w ws hw => ?_, fun q r hr w hbound hnv => ?_, fun q => ?_⟩
  · rw [level_of_lines (teardown_only s p .lines (by simp [hearBlocks]))]
    rw [hset] at hw
    exact hsets w ws (Option.filter_eq_some_iff.mp hw).1
  · by_cases hq : q = p
    · subst hq; simp [hjour, Journal.empty, Journal.records] at hr
    · rw [hjour, PerPort.at_put_ne _ _ hq] at hr
      obtain ⟨ws, hs, ho, rest⟩ := hrecords q r hr w hbound hnv
      exact ⟨ws, by rw [hset, hs]; simp [ho, hq], ho, rest⟩
  · rw [hjour]
    by_cases hq : q = p
    · subst hq; simp [Journal.ordered, Journal.empty]
    · rw [PerPort.at_put_ne _ _ hq]; exact hord q

theorem fitted_freshOpen {s : State} (p : Port) (prm : Params) (h : s.fitted) : (s.freshOpen p prm).fitted := by
  have emptied : (s.putJournal p Journal.empty).fitted :=
    fitted_putJournal (by simp [Journal.empty, Journal.records]) (by simp [Journal.ordered, Journal.empty]) h
  exact fitted_same rfl rfl rfl emptied

/-! ### The fit through a line event -/

/-- A set that turns STALE, or raises its attention in SUMMARY mode, keeps its records (R31, R32). -/
theorem fitted_heard {s : State} {w : SetId} {ws vs : WatchSet} (hs : s.sets.at w = some ws) (hp : ws.phase = .armed)
    (ho : vs.owner = ws.owner) (hmode : vs.mode = ws.mode) (hmem : vs.members = ws.members)
    (hsnap : vs.snapshot = ws.snapshot) (hatt : vs.attention = true → vs.mode = .summary) (hu : vs.inUse = true)
    (h : s.fitted) : ((s.putSet w (some vs)).raiseStatus vs.owner).fitted := by
  have huse : ws.inUse = true := (inUse_iff ws).mpr (by simp [hp])
  refine fitted_same rfl rfl rfl (fitted_putSet_like hs ho hmode hmem (fun _ => hu) ?_ h)
  exact sound_like hmem hsnap hatt (fun _ => huse) (((fitted_iff s).mp h).1 w ws hs)

/-- Neighbours that hear of a line keep ownership and fit. -/
theorem fitted_hearOwned : HearOwned fun s => s.owned ∧ s.fitted where
  owned _ h := h.1
  append s p r hc hl hr hv hm h := ⟨owned_hearOwned.append s p r hc hl hr hv hm h.1,
    fitted_append hr hv (fun _ _ _ hlev => absurd hm hlev) h.2⟩
  overrun s w ws hs hp h := ⟨owned_hearOwned.overrun s w ws hs hp h.1,
    fitted_heard hs hp rfl rfl rfl rfl (((fitted_iff s).mp h.2).1 w ws hs).2.2.2.1 rfl h.2⟩
  loss s p hl h := ⟨owned_noteLoss hl h.1, fitted_of_only (changesOnly_mono (noteLoss_only s p) (by simp)) h.2⟩
  absorb s w ws l v st us hs hp hm hl ha h := ⟨owned_hearOwned.absorb s w ws l v st us hs hp hm hl ha h.1,
    fitted_absorb hs hp hm hl ha h.2⟩
  attend s w ws hs hp hm h := ⟨owned_hearOwned.attend s w ws hs hp hm h.1,
    fitted_heard hs hp rfl rfl rfl rfl (fun _ => hm) ((inUse_iff _).mpr (by simp [hp])) h.2⟩
  output s o v f h := ⟨owned_hearOwned.output s o v f h.1, fitted_same (s := s) rfl rfl rfl h.2⟩
  choice s n h := ⟨owned_hearOwned.choice s n h.1, fitted_same (s := s) rfl rfl rfl h.2⟩

/-- A line that takes its sample loses no known level (R2). -/
theorem fitted_putTaken {s : State} (l : LineId) (x : Bool) (h : s.fitted) :
    (s.putLine l ((s.lines.at l).take s.now s.time x).1).fitted := by
  refine fitted_level (s := s) rfl rfl (fun w ws _ _ m _ hk => ?_) h
  rw [level_put]
  dsimp only
  split
  · rename_i hm; subst hm; exact take_known hk
  · exact hk

/-- Every change keeps ownership and fit. -/
theorem change_keeps_fitted (s t : State) (c : Change s t) (h : s.owned ∧ s.fitted) : t.owned ∧ t.fitted := by
  refine ⟨change_keeps_owned s t c h.1, ?_⟩
  obtain ⟨howned, hf⟩ := h
  cases c with
  | quiet hq => exact fitted_same hq.level hq.sets hq.journals hf
  | sessionRecord hp hr =>
    refine fitted_append (sound_unbound hr) ?_ (fun _ _ _ _ hset => by rw [hr] at hset; contradiction) hf
    rename_i r; cases hb : r.body <;> simp [hb, RecBody.set?] at hr <;> rfl
  | line l =>
    exact (fitted_hearOwned.takeLine (fun s l x h => ⟨owned_keep_sets h.1 rfl (fun _ => rfl) ((owned_iff s).mp h.1).1
      fun _ _ => rfl, fitted_putTaken l x h.2⟩) s l ⟨howned, hf⟩).2
  | configure c hfree => exact fitted_configure c hfree hf
  | sent next hn => exact fitted_sent next hn hf
  | acknowledge d hp => exact fitted_acknowledge _ d hf
  | define mode hp hm hsorted hw =>
    exact fitted_putSet_void (allVoid_of hf fun ws hs => Or.inl (hw ws hs))
      (fun _ e => Option.some.inj e ▸ sound_defined hm hsorted) hf
  | snap hs hk => exact fitted_snap hs hk hf
  | disarm hs => exact fitted_disarm hs hf
  | delete hs hi =>
    refine fitted_putSet_void (allVoid_of hf fun ws hw => ?_) (by simp) hf
    exact Or.inl (Option.some.inj (hs.symm.trans hw) ▸ hi)
  | mark hs hu hm => exact fitted_mark hs hu hm hf
  | adopt hs ho hp hl => exact fitted_adopt hs ho hf
  | teardown p => exact fitted_teardown p hf
  | freshOpen prm hst => exact fitted_freshOpen _ prm hf
  | silence p => exact fitted_of_only (changesOnly_mono (restartSilence_only s p) (by simp)) hf
  | lapse why hst hr => exact fitted_of_only (changesOnly_mono (lapse_retained_only why hst hr) (by simp)) hf
  | lossFlag flag hp => exact fitted_same (s := s) rfl rfl rfl hf
  | claim hp hl => exact fitted_same (s := s) rfl rfl rfl hf
  | outputs hp ho => exact fitted_same (s := s) rfl rfl rfl hf
  | grace o => exact fitted_same (s := s) rfl rfl rfl hf
  | resume old new hl => exact fitted_same (s := s) rfl rfl rfl hf

/-- The emptied part is fitted. -/
theorem emptied_fitted {s : State} (h : s.Emptied) : s.fitted :=
  (fitted_iff s).mpr ⟨fun w ws hw => by simp [h.sets w] at hw,
    fun p r hr => by simp [h.journals p, Journal.empty, Journal.records] at hr,
    fun p => by simp [h.journals p, Journal.ordered, Journal.empty]⟩

/-- Settles O58: the changes that a step is made of keep the fit together with the ownership. -/
theorem everyStepKeepsTheSetsAndRecordsFitted : Obligations.EveryStepKeepsTheSetsAndRecordsFitted := fun _ _ ho hf h =>
  (step_keeps_of_changes change_keeps_fitted (fun _ he => ⟨emptied_owned he, emptied_fitted he⟩) ⟨ho, hf⟩ h).2

end Sys2Proof.Machine
end

section
/-! PROOFS. The snapshot law: each change of what is held keeps it, a line event through all the sets that hear of it (R33). -/

namespace Sys2Proof.Machine

open Sys2Proof

/-! ### The law of one set -/

/-- The records of a journal that are bound to the set w, in journal order. -/
def Journal.bound (w : SetId) (j : Journal) : List Rec := j.records.filter (Rec.ofSet w)

/-- The snapshot law of one set, for given levels of the lines (R33). -/
def State.lawAt (s : State) (level : LineId → Option Bool) (w : SetId) : Prop :=
  ∀ ws, s.sets.at w = some ws → ws.phase = .armed → ws.mode ≠ .summary →
    (folds ws.members ((s.journals.at ws.owner).bound w) ws.snapshot).map (List.map some) = some (ws.members.map level)

theorem snapshotLaw_iff (s : State) : s.snapshotLaw ↔ ∀ w, s.lawAt s.level w := Iff.rfl

/-- The law of a set hangs on the set, its own records and the levels of its members. -/
theorem lawAt_keep {s t : State} {old new : LineId → Option Bool} {w : SetId}
    (hkeep : ∀ ws, t.sets.at w = some ws → ws.phase = .armed → ws.mode ≠ .summary → s.sets.at w = some ws ∧
      (t.journals.at ws.owner).bound w = (s.journals.at ws.owner).bound w ∧ ∀ l ∈ ws.members, new l = old l)
    (h : s.lawAt old w) : t.lawAt new w := by
  intro ws hw hp hm
  obtain ⟨hs, hbound, hlevel⟩ := hkeep ws hw hp hm
  rw [hbound, List.map_congr_left hlevel]
  exact h ws hs hp hm

/-- A set that is not ARMED, or in SUMMARY mode, keeps the law. -/
theorem lawAt_vacuous {s : State} {level : LineId → Option Bool} {w : SetId}
    (h : ∀ ws, s.sets.at w = some ws → ws.phase = .armed → ws.mode = .summary) : s.lawAt level w :=
  fun ws hs hp hm => absurd (h ws hs hp) hm

/-- The two states agree on the set and on its records. -/
def State.sameSet (s t : State) (w : SetId) : Prop :=
  t.sets.at w = s.sets.at w ∧ ∀ p, (t.journals.at p).bound w = (s.journals.at p).bound w

theorem lawAt_sameSet {s t : State} {level : LineId → Option Bool} {w : SetId} (ht : s.sameSet t w)
    (h : s.lawAt level w) : t.lawAt level w :=
  lawAt_keep (fun ws hs _ _ => ⟨ht.1 ▸ hs, ht.2 ws.owner, fun _ _ => rfl⟩) h

/-! ### What the operations on a journal do to the records of one set -/

theorem ofSet_iff (w : SetId) (r : Rec) : r.ofSet w = true ↔ r.body.set? = some w := by simp [Rec.ofSet]

/-- A record of another set, or of none, is no record of the set. -/
theorem ofSet_other {v w : SetId} {r : Rec} (h : r.body.set? = some w) (hv : v ≠ w) : r.ofSet v = false := by
  simp [Rec.ofSet, h, Ne.symm hv]

theorem bound_append (w : SetId) (j : Journal) (r : Rec) :
    Journal.bound w { j with unsent := j.unsent ++ [r] } = j.bound w ++ if r.ofSet w then [r] else [] := by
  simp only [Journal.bound, Journal.records, List.filter_append, List.append_assoc, List.filter_singleton]
  cases r.ofSet w <;> rfl

/-- The records of one set stay as the UNSENT ones of another leave (R66). -/
theorem filter_dropped {v w : SetId} (hv : v ≠ w) (us : List Rec) :
    (us.filter fun r => !r.ofSet w).filter (Rec.ofSet v) = us.filter (Rec.ofSet v) := by
  rw [List.filter_filter]
  refine List.filter_congr fun r _ => ?_
  by_cases hr : r.ofSet v = true
  · simp [ofSet_other ((ofSet_iff v r).mp hr) (Ne.symm hv)]
  · simp [hr]

theorem bound_dropUnsent {v w : SetId} (hv : v ≠ w) (j : Journal) : (j.dropUnsentOf w).bound v = j.bound v := by
  simp only [Journal.bound, Journal.records, Journal.dropUnsentOf, List.filter_append, filter_dropped hv]

/-- The records of one set stay as another is voided (R66). -/
theorem bound_void {v w : SetId} (hv : v ≠ w) (j : Journal) : ((j.dropUnsentOf w).voidInflightOf w).bound v = j.bound v := by
  have sent : ∀ xs : List Sent,
      ((xs.map fun x => if x.entry.ofSet w then { x with entry := x.entry.toVoid w } else x).map Sent.entry).filter
        (Rec.ofSet v) = (xs.map Sent.entry).filter (Rec.ofSet v) := by
    intro xs
    induction xs with
    | nil => rfl
    | cons x xs ih =>
      by_cases hx : x.entry.ofSet w = true
      · have hold : x.entry.ofSet v = false := ofSet_other ((ofSet_iff w _).mp hx) hv
        have hnew : (x.entry.toVoid w).ofSet v = false := ofSet_other (w := w) rfl hv
        simp only [List.map_cons, hx, if_true, List.filter_cons, hold, hnew, Bool.false_eq_true, if_false, ih]
      · simp only [List.map_cons, hx, Bool.false_eq_true, if_false, List.filter_cons, ih]
  simp only [Journal.bound, Journal.records, Journal.dropUnsentOf, Journal.voidInflightOf, List.filter_append,
    filter_dropped hv, sent]

/-- A LATEST update of one set leaves the records of another as they were (R28). -/
theorem bound_absorb_other {v w : SetId} (hv : v ≠ w) {j : Journal} {l : LineId} {level : Bool} {stamp : Time}
    {us : List Rec} (ha : absorbChange w l level stamp j.unsent = some us) :
    Journal.bound v { j with unsent := us } = j.bound v := by
  obtain ⟨before, behind, r, hj, -, hr, hus⟩ := absorb_split ha
  have gone : ∀ {a : Rec}, a.isChangeOf w l = true → a.ofSet v = false := fun h => ofSet_other (change_bound h).1 hv
  obtain ⟨hin, hmoved⟩ := isChangeOf_absorb level stamp behind hr
  simp only [Journal.bound, Journal.records, hj, List.filter_append]
  rcases hus with ⟨-, rfl⟩ | ⟨-, rfl⟩
  · simp [gone hr, gone hin]
  · simp [gone hr, gone hmoved]

/-- A LATEST update sets the level of its line in what the records of the set replay to (R28, R29, R33). -/
theorem folds_absorb {w : SetId} {l : LineId} {level : Bool} {stamp : Time} {j : Journal} {us : List Rec}
    (ha : absorbChange w l level stamp j.unsent = some us) (hj : j.ordered) (ms : List LineId) (sn : Option (List Bool)) :
    folds ms (Journal.bound w { j with unsent := us }) sn = (folds ms (j.bound w) sn).map (foldLevel ms l level) := by
  obtain ⟨before, behind, r, hunsent, -, hr, hus⟩ := absorb_split ha
  obtain ⟨old, folded, hbody⟩ := (isChangeOf_iff w l r).mp hr
  have own : ∀ {a : Rec}, a.isChangeOf w l = true → a.ofSet w = true := fun h => (ofSet_iff w _).mpr (change_bound h).1
  have fold : ∀ {a : Rec} {f}, a.body = .change w l level f → ∀ x, a.body.fold ms x = x.map (foldLevel ms l level) := by
    intro a f ha x; rw [ha]; rfl
  have plain : ∀ a ∈ behind.filter (Rec.ofSet w), Rec.plain a := by
    intro a ha
    obtain ⟨hmem, hset⟩ := List.mem_filter.mp ha
    obtain ⟨-, hord⟩ := hj
    rw [hunsent, List.pairwise_append, List.pairwise_cons] at hord
    by_contra hmark
    exact hord.2.1.1 a hmem w hmark ((ofSet_iff w a).mp hset) (change_bound hr).1
  set x := folds ms ((j.inflight.map Sent.entry).filter (Rec.ofSet w) ++ before.filter (Rec.ofSet w)) sn with hx
  have replayed : folds ms (j.bound w) sn = folds ms (behind.filter (Rec.ofSet w)) (x.map (foldLevel ms l old)) := by
    simp only [Journal.bound, Journal.records, hunsent, List.filter_append, List.filter_cons, own hr, if_true, hx]
    rw [← List.append_assoc, folds, folds, List.foldl_append, List.foldl_cons, hbody]
    rfl
  have agree : (folds ms (behind.filter (Rec.ofSet w)) (x.map (foldLevel ms l old))).map (foldLevel ms l level) =
      (folds ms (behind.filter (Rec.ofSet w)) x).map (foldLevel ms l level) := by
    refine folds_plain_agree ms l level _ plain _ _ ?_
    rw [Option.map_map]
    congr 1
    funext z
    exact foldLevel_absorb ms l old level z
  rw [replayed, agree]
  obtain ⟨f, hf⟩ := absorb_body (level := level) (stamp := stamp) hr
  obtain ⟨hin, hmoved⟩ := isChangeOf_absorb level stamp behind hr
  rcases hus with ⟨hfree, rfl⟩ | ⟨-, rfl⟩
  · have passes : ∀ a ∈ behind.filter (Rec.ofSet w), Rec.plain a ∧ a.body.line? ≠ some l := by
      refine fun a ha => ⟨plain a ha, fun hline => ?_⟩
      obtain ⟨hmem, hset⟩ := List.mem_filter.mp ha
      have hforces : a.forcesMove w l = true := (forcesMove_iff w l a).mpr (Or.inl ⟨(ofSet_iff w a).mp hset, hline⟩)
      rw [List.any_eq_false] at hfree
      exact hfree a hmem hforces
    rw [← folds_comm ms l level _ passes]
    simp only [Journal.bound, Journal.records, List.filter_append, List.filter_cons, own hin, if_true, hx]
    rw [← List.append_assoc, folds, folds, List.foldl_append, List.foldl_cons, fold hf]
  · simp only [Journal.bound, Journal.records, List.filter_append, List.filter_cons, List.filter_nil, own hmoved, if_true, hx]
    rw [← List.append_assoc, ← List.append_assoc, folds_snoc, fold (a := (r.absorb level stamp).movedPast behind) hf]
    simp only [folds, List.foldl_append]

/-! ### A line event through one hearer -/

/-- The levels of the lines after an event of line l (R15). -/
def LineEvent.after (l : LineId) (level : LineId → Option Bool) : LineEvent → LineId → Option Bool
  | .change v _ => fun m => if m = l then some v else level m
  | .chatterStart _ _ => level
  | .chatterEnd v _ _ => fun m => if m = l then some v else level m

/-- An event moves no line but its own. -/
theorem after_other (e : LineEvent) (level : LineId → Option Bool) {l m : LineId} (h : m ≠ l) : e.after l level m = level m := by
  cases e <;> simp [LineEvent.after, h]

/-- The record of an event takes a snapshot of the levels before it to those after it (R33). -/
theorem fold_event (w : SetId) (l : LineId) (e : LineEvent) (ms : List LineId) (sn : Option (List Bool))
    (level : LineId → Option Bool) (h : sn.map (List.map some) = some (ms.map level)) :
    ((e.record w l).body.fold ms sn).map (List.map some) = some (ms.map (e.after l level)) := by
  obtain ⟨snap, rfl, hsnap⟩ := Option.map_eq_some_iff.mp h
  cases e with
  | change v st => exact congrArg some (foldLevel_map ms l v snap level hsnap)
  | chatterStart v st => exact congrArg some hsnap
  | chatterEnd v st ch => exact congrArg some (foldLevel_map ms l v snap level hsnap)

/-- The other sets and their records stay as one set asks for a record (R59). -/
theorem admitForSet_sameSet {s : State} {v w : SetId} (hv : v ≠ w) (ws : WatchSet) {r : Rec} (hr : r.body.set? = some w) :
    s.sameSet (s.admitForSet w ws r) v := by
  unfold State.admitForSet State.tryAdmit
  split
  · refine ⟨rfl, fun p => ?_⟩
    by_cases hp : p = ws.owner
    · subst hp
      simp only [Option.getD_some, State.append_journals, PerPort.at_put_same]
      rw [bound_append, ofSet_other hr hv]
      exact List.append_nil _
    · simp [hp]
  · exact ⟨by simp [State.overrunSet, hv], fun p => rfl⟩

/-- A set that takes an event leaves the other sets and their records alone (R26, R59). -/
theorem hearSet_sameSet (s : State) {v w : SetId} (hv : v ≠ w) (l : LineId) (e : LineEvent) : s.sameSet (s.hearSet w l e) v := by
  have same : s.sameSet s v := ⟨rfl, fun _ => rfl⟩
  have asks : ∀ ws, s.sameSet (s.admitForSet w ws (e.record w l)) v := fun ws => admitForSet_sameSet hv ws (event_set w l e).1
  unfold State.hearSet
  split
  · exact same
  · split
    · split
      · exact asks _
      · unfold State.hearLatest
        split
        · split
          · rename_i ha
            refine ⟨rfl, fun p => ?_⟩
            simp only [State.putJournal_journals, PerPort.at_put]
            split
            · rename_i hp; subst hp; exact bound_absorb_other hv ha
            · rfl
          · exact asks _
        · exact asks _
        · exact asks _
      · unfold State.hearSummary
        dsimp only
        split
        · exact ⟨by simp [hv], fun p => rfl⟩
        · exact same
    · exact same

/-- A record that an ARMED set asks for takes its law from the levels before the event to those after it (R27, R30, R31). -/
theorem admitForSet_lawAt {s : State} {w : SetId} {ws : WatchSet} (hs : s.sets.at w = some ws) (hp : ws.phase = .armed)
    (l : LineId) (e : LineEvent) {level : LineId → Option Bool} (h : s.lawAt level w) :
    (s.admitForSet w ws (e.record w l)).lawAt (e.after l level) w := by
  unfold State.admitForSet State.tryAdmit
  split
  · intro vs hvs _ hm
    obtain rfl := Option.some.inj (hs.symm.trans hvs)
    simp only [Option.getD_some, State.append_journals, PerPort.at_put_same]
    rw [bound_append, if_pos ((ofSet_iff w _).mpr (event_set w l e).1), folds_snoc]
    exact fold_event w l e _ _ level (h ws hs hp hm)
  · refine lawAt_vacuous fun vs hvs hphase => ?_
    obtain rfl : { ws with phase := .stale .overrun } = vs := by simpa [State.overrunSet] using hvs
    simp at hphase

/-- A set that takes an event of a line has its law for the levels after it (R26 to R30, R33). -/
theorem hearSet_lawAt {s : State} (hf : s.fitted) (w : SetId) (l : LineId) (e : LineEvent) {level : LineId → Option Bool}
    (h : s.lawAt level w) : (s.hearSet w l e).lawAt (e.after l level) w := by
  unfold State.hearSet
  split
  · rename_i hs; exact lawAt_vacuous fun vs hvs => by rw [hs] at hvs; contradiction
  · rename_i ws hs
    by_cases hfol : ws.follows l = true
    · obtain ⟨hp, hl⟩ := (follows_iff ws l).mp hfol
      have asks := admitForSet_lawAt hs hp l e h
      rw [if_pos hfol]
      split
      · exact asks
      · rename_i hm
        unfold State.hearLatest
        split
        · split
          · rename_i v st _ _ ha
            intro vs hvs _ hm
            obtain rfl := Option.some.inj (hs.symm.trans hvs)
            simp only [State.putJournal_journals, PerPort.at_put_same]
            rw [folds_absorb ha (((fitted_iff s).mp hf).2.2 _)]
            exact fold_event w l (.change v st) _ _ level (h ws hs hp hm)
          · exact asks
        · exact asks
        · exact asks
      · rename_i hm
        refine lawAt_vacuous fun vs hvs _ => ?_
        unfold State.hearSummary at hvs
        dsimp only at hvs
        split at hvs
        · obtain rfl : { ws with attention := true } = vs := by simpa using hvs
          exact hm
        · exact Option.some.inj (hs.symm.trans hvs) ▸ hm
    · rw [if_neg hfol]
      refine lawAt_keep (fun vs hvs hp _ => ⟨hvs, rfl, fun m hm => after_other e level fun hml => ?_⟩) h
      obtain rfl := Option.some.inj (hs.symm.trans hvs)
      exact hfol ((follows_iff ws l).mpr ⟨hp, hml ▸ hm⟩)

/-- A verdict on an output leaves the sets and their records alone (R143). -/
theorem judged_sameSet (s : State) (o : OutId) (d : Bool) (v : SetId) : s.sameSet (s.judged o d) v := by
  have same : s.sameSet s v := ⟨rfl, fun _ => rfl⟩
  unfold State.judged
  dsimp only
  split
  · exact same
  · split
    · exact same
    · exact same
    · split
      · refine ⟨rfl, fun p => ?_⟩
        simp only [PerPort.at_put]
        split
        · rename_i hp
          subst hp
          rw [bound_append]
          exact List.append_nil _
        · rfl
      · exact same

/-- An output that hears of its line leaves the sets and their records alone (R17). -/
theorem hearOutput_sameSet (s : State) (o : OutId) (n : LineNews) (v : SetId) : s.sameSet (s.hearOutput o n) v := by
  have same : s.sameSet s v := ⟨rfl, fun _ => rfl⟩
  have verdict : ∀ d, s.sameSet (s.judgeOutput o d) v := fun d => judgeOutput_eq s o d ▸ judged_sameSet s o d v
  unfold State.hearOutput State.hearWaiting State.hearDeferred State.hearOk State.hearUnverified
  split <;> (try split) <;> first | exact same | exact verdict _

/-! ### A line event through all its hearers -/

/-- The law of every set, for the levels before the event where it has still to hear of it and for those after it where it has
not. -/
def State.lawThrough (s : State) (l : LineId) (e : LineEvent) (level : LineId → Option Bool) (order : List Hearer) : Prop :=
  ∀ w, s.lawAt (if Hearer.set w ∈ order then level else e.after l level) w

theorem hear_lawThrough {s : State} (hf : s.fitted) {l : LineId} {e : LineEvent} {level : LineId → Option Bool} {x : Hearer}
    {xs : List Hearer} (hx : x ∉ xs) (h : s.lawThrough l e level (x :: xs)) :
    (State.hear l (.event e) s x).lawThrough l e level xs := by
  intro w
  have hw := h w
  cases x with
  | output o =>
    simp only [List.mem_cons, reduceCtorEq, false_or] at hw
    exact lawAt_sameSet (hearOutput_sameSet s o _ w) hw
  | set v =>
    by_cases hv : w = v
    · subst hv
      rw [if_pos (List.mem_cons_self ..)] at hw
      rw [if_neg hx]
      exact hearSet_lawAt hf w l e hw
    · simp only [List.mem_cons, Hearer.set.injEq, hv, false_or] at hw
      exact lawAt_sameSet (hearSet_sameSet s hv l e) hw

theorem foldl_hear_lawThrough {l : LineId} {e : LineEvent} {level : LineId → Option Bool} {order : List Hearer}
    (hn : order.Nodup) {s : State} (hof : s.owned ∧ s.fitted) (h : s.lawThrough l e level order) :
    (order.foldl (State.hear l (.event e)) s).lawThrough l e level [] := by
  induction order generalizing s with
  | nil => exact h
  | cons x xs ih =>
    obtain ⟨hx, hn⟩ := List.nodup_cons.mp hn
    exact ih hn (fitted_hearOwned.hear s l _ x hof) (hear_lawThrough hof.2 hx h)

/-- An event that is told takes the law of every set from the levels before it to those after it (R15, R33). -/
theorem tell_law {s : State} (hof : s.owned ∧ s.fitted) (l : LineId) (e : LineEvent) {level : LineId → Option Bool}
    (h : ∀ w, s.lawAt level w) (w : SetId) : (s.tell l (.event e)).lawAt (e.after l level) w := by
  obtain ⟨order, hnodup, hsets, -, htell⟩ := tell_order s l e
  have before : ({ s with choice := s.choice + 1 } : State).lawThrough l e level order := by
    intro v
    refine lawAt_keep (fun vs hvs hp hm => ⟨hvs, rfl, fun m hmem => ?_⟩) (h v)
    split
    · rfl
    · rename_i hno
      exact after_other e level fun hml => hno ((hsets v).mpr ⟨vs, hvs, hp, hml ▸ hmem⟩)
  have all := foldl_hear_lawThrough hnodup (fitted_hearOwned.choice s _ hof) before w
  rw [htell]
  simpa using all

/-- News that is no event leaves the law of every set (R17). -/
theorem tell_calm_law {s : State} (l : LineId) {n : LineNews} (hn : ∀ e, n ≠ .event e) {level : LineId → Option Bool}
    (h : ∀ w, s.lawAt level w) (w : SetId) : (s.tell l n).lawAt level w := by
  have hh := hearers_unset s l n hn
  rcases hs : l.sensed with _ | o
  · rw [tell_none (by rw [hh, hs]; rfl)]
    exact h w
  · rw [tell_one (x := .output o) (by rw [hh, hs]; rfl)]
    exact lawAt_sameSet (hearOutput_sameSet _ o n w) (h w)

/-- A line that takes its sample, and its neighbours with it, keep the snapshot law (R3, R15, R33). -/
theorem law_takeLine {s : State} (hof : s.owned ∧ s.fitted) (l : LineId) (h : s.snapshotLaw) : (s.takeLine l).snapshotLaw := by
  unfold State.takeLine
  dsimp only
  split
  · exact h
  · rename_i x _
    have hlev := take_level (s.lines.at l) s.now s.time x
    set r := ((s.lines.at l).take s.now s.time x).1
    set t := s.putLine l r
    have hof' : t.owned ∧ t.fitted := ⟨owned_keep_sets hof.1 rfl (fun _ => rfl) ((owned_iff s).mp hof.1).1 fun _ _ => rfl,
      fitted_putTaken l x hof.2⟩
    have before : ∀ w, t.lawAt s.level w := h
    have now : t.level = fun m => if m = l then r.state.level else s.level m := level_put s l r
    have calm : r.state.level = (s.lines.at l).state.level → t.level = s.level := fun e => by
      rw [now]; funext m; split
      · rename_i hm; subst hm; exact e
      · rfl
    split
    · rename_i hnews
      rw [hnews] at hlev
      exact fun w => calm hlev ▸ before w
    · rename_i news hnews
      rw [hnews] at hlev
      have told : (t.tell l news).level = t.level := level_of_lines (tell_lines t l news)
      intro w
      rw [told]
      by_cases hev : ∃ e, news = .event e
      · obtain ⟨e, rfl⟩ := hev
        have after : t.level = e.after l s.level := by
          cases e with
          | change v st => rw [now, hlev]; rfl
          | chatterStart v st => exact calm hlev
          | chatterEnd v st ch => rw [now, hlev]; rfl
        rw [after]
        exact tell_law hof' l e before w
      · have hn : ∀ e, news ≠ .event e := fun e he => hev ⟨e, he⟩
        have hcalm : (s.lines.at l).state.level = none ∨ r.state.level = (s.lines.at l).state.level := by
          cases news with
          | event e => exact absurd rfl (hn e)
          | _ => exact hlev
        refine tell_calm_law l hn (fun v => lawAt_keep (s := t) (fun vs hvs hp _ => ⟨hvs, rfl, fun m hm => ?_⟩) (before v)) w
        rcases hcalm with hunknown | hsame
        · have known := ((((fitted_iff s).mp hof.2).1 v vs hvs).2.2.2.2 ((inUse_iff vs).mpr (by simp [hp]))).2 m hm
          have hml : m ≠ l := fun e => known (by rw [State.level, e]; exact hunknown)
          simp [now, hml]
        · rw [calm hsame]

/-! ### The other changes -/

/-- The law stays where levels, sets and journals do. -/
theorem law_same {s t : State} (hl : t.level = s.level) (hsets : t.sets = s.sets) (hjour : t.journals = s.journals)
    (h : s.snapshotLaw) : t.snapshotLaw := by
  intro w
  rw [hl]
  exact lawAt_keep (fun ws hs _ _ => ⟨hsets ▸ hs, by rw [hjour], fun _ _ => rfl⟩) (h w)

theorem law_of_only {s t : State}
    (h : s.changesOnly [.clock, .reset, .outputs, .sessions, .engines, .ports, .orders, .queue] t) (hl : s.snapshotLaw) :
    t.snapshotLaw := by
  obtain ⟨hlev, hsets, hjour⟩ := unheld_of_only h
  exact law_same hlev hsets hjour hl

/-- The law of the sets apart from one, whose own law is given. -/
theorem law_one_set {s t : State} (w : SetId) (hl : t.level = s.level) (hw : t.lawAt t.level w)
    (hothers : ∀ v, v ≠ w → s.sameSet t v) (h : s.snapshotLaw) : t.snapshotLaw := by
  intro v
  by_cases hv : v = w
  · subst hv; exact hw
  · rw [hl]; exact lawAt_sameSet (hothers v hv) (h v)

/-- A write of one set leaves the others as they were. -/
theorem putSet_sameSet (s : State) {v w : SetId} (hv : v ≠ w) (x : Option WatchSet) : s.sameSet (s.putSet w x) v :=
  ⟨by simp [hv], fun _ => rfl⟩

/-- A write of one journal that keeps the records of a set. -/
theorem putJournal_sameSet (s : State) {p : Port} {j : Journal} {v : SetId} (hj : j.bound v = (s.journals.at p).bound v) :
    s.sameSet (s.putJournal p j) v := by
  refine ⟨rfl, fun q => ?_⟩
  simp only [State.putJournal_journals, PerPort.at_put]
  split
  · rename_i hq; subst hq; exact hj
  · rfl

theorem sameSet_trans {s t u : State} {v : SetId} (h : s.sameSet t v) (h' : t.sameSet u v) : s.sameSet u v :=
  ⟨h'.1.trans h.1, fun p => (h'.2 p).trans (h.2 p)⟩

theorem append_sameSet (s : State) (p : Port) {r : Rec} {v : SetId} (hr : r.ofSet v = false) : s.sameSet (s.append p r) v :=
  putJournal_sameSet s (by rw [bound_append, hr]; exact List.append_nil _)

/-- A set that is written IDLE, FREE or STALE has no law to keep. -/
theorem law_putSet_off {s : State} {w : SetId} {x : Option WatchSet} (hx : ∀ ws, x = some ws → ws.phase ≠ .armed)
    (h : s.snapshotLaw) : (s.putSet w x).snapshotLaw :=
  law_one_set (s := s) w rfl (lawAt_vacuous fun vs hvs hp => absurd hp (hx vs (by simpa using hvs)))
    (fun _ hv => putSet_sameSet s hv x) h

/-- VOID records fold to nothing (R88). -/
theorem folds_void {ms : List LineId} {rs : List Rec} (hr : ∀ r ∈ rs, r.body.isVoid = true) (sn : Option (List Bool)) :
    folds ms rs sn = sn := by
  induction rs with
  | nil => rfl
  | cons r rs ih =>
    have hv := hr r (List.mem_cons_self ..)
    have one : r.body.fold ms sn = sn := by
      cases hb : r.body with
      | void w => rfl
      | _ => simp [hb, RecBody.isVoid] at hv
    rw [folds, List.foldl_cons, one]
    exact ih fun r' h' => hr r' (List.mem_cons_of_mem _ h')

/-- The levels of members that are all known. -/
theorem memberLevels_known {s : State} {ws : WatchSet} (h : ∀ l ∈ ws.members, s.level l ≠ none) :
    (s.memberLevels ws).map some = ws.members.map s.level := by
  rw [State.memberLevels, List.map_map]
  refine List.map_congr_left fun l hl => ?_
  obtain ⟨b, hb⟩ := Option.ne_none_iff_exists'.mp (h l hl)
  simp [hb]

/-- An IDLE set is armed with the levels of its members, its records being VOID (R33, R37). -/
theorem law_snap {s : State} {w : SetId} {ws : WatchSet} (hs : s.sets.at w = some ws)
    (hk : ws.phase = .idle ∧ s.levelsKnown ws = true ∨ ws.mode = .summary ∧ ws.phase ≠ .idle) (hf : s.fitted)
    (h : s.snapshotLaw) : (s.snapSet w ws).state.snapshotLaw := by
  refine law_one_set (s := s) w rfl (fun vs hvs _ hm => ?_) (fun _ hv => putSet_sameSet s hv _) h
  obtain rfl := Option.some.inj ((Tab.at_put_same ..).symm.trans hvs)
  rcases hk with ⟨hi, hk⟩ | ⟨hsum, -⟩
  · have void : ∀ r ∈ (s.journals.at ws.owner).bound w, r.body.isVoid = true := fun r hr => by
      obtain ⟨hmem, hset⟩ := List.mem_filter.mp hr
      refine allVoid_of hf (fun vs hvs => Or.inl ?_) ws.owner r hmem ((ofSet_iff w r).mp hset)
      exact Option.some.inj (hs.symm.trans hvs) ▸ hi
    have replay : folds ws.members ((s.journals.at ws.owner).bound w) (some (s.memberLevels ws)) =
        some (s.memberLevels ws) := folds_void void _
    exact (congrArg (Option.map (List.map some)) replay).trans
      (congrArg some (memberLevels_known ((levelsKnown_iff s ws).mp hk)))
  · exact absurd hsum hm

/-- The mark of a RESYNC_SET gives every member its level, whatever stands before it (R33, R43). -/
theorem law_mark {s : State} {w : SetId} {ws : WatchSet} (hs : s.sets.at w = some ws) (hu : ws.phase ≠ .idle)
    (hf : s.fitted) (h : s.snapshotLaw) :
    (((s.putJournal ws.owner ((s.journals.at ws.owner).dropUnsentOf w)).append ws.owner (s.resyncMark w ws)).putSet w
      (some { ws with phase := .armed })).snapshotLaw := by
  refine law_one_set (s := s) w rfl (fun vs hvs _ _ => ?_) (fun v hv => ?_) h
  · obtain rfl := Option.some.inj ((Tab.at_put_same ..).symm.trans hvs)
    have known := ((((fitted_iff s).mp hf).1 w ws hs).2.2.2.2 ((inUse_iff ws).mpr hu)).2
    simp only [State.putSet_journals, State.append_journals, PerPort.at_put_same]
    rw [bound_append, if_pos ((ofSet_iff w _).mpr rfl), folds_snoc]
    exact congrArg some (memberLevels_known known)
  · have dropped := putJournal_sameSet s (p := ws.owner) (bound_dropUnsent hv _)
    exact sameSet_trans (sameSet_trans dropped (append_sameSet _ _ (ofSet_other (w := w) rfl hv))) (putSet_sameSet _ hv _)

/-- A set is voided and written IDLE or STALE (R38, R114). -/
theorem law_void_off {s : State} (p : Port) {w : SetId} {ws : WatchSet} (hp : ws.phase ≠ .armed) (h : s.snapshotLaw) :
    ((s.voidSet p w).putSet w (some ws)).snapshotLaw := by
  refine law_one_set (s := s) w rfl (lawAt_vacuous fun vs hvs hphase => ?_) (fun v hv => ?_) h
  · obtain rfl := Option.some.inj ((Tab.at_put_same ..).symm.trans hvs)
    exact absurd hphase hp
  · exact sameSet_trans (putJournal_sameSet s (bound_void hv _)) (putSet_sameSet _ hv _)

/-- What an ACK removes from the records it folds into the snapshot (R33, R88). -/
theorem law_acknowledge {s : State} (p : Port) (d : Nat) (h : s.snapshotLaw) : (s.acknowledge p d).snapshotLaw := by
  intro w vs hvs hphase hmode
  rw [acknowledge_sets, Option.map_eq_some_iff] at hvs
  obtain ⟨ws, hs, rfl⟩ := hvs
  rw [folded_phase] at hphase
  rw [folded_mode] at hmode
  rw [State.replayed, acknowledge_level, acknowledge_journals, folded_owner, folded_members]
  have law := h w ws hs hphase hmode
  by_cases ho : ws.owner = p
  · subst ho
    rw [WatchSet.folded, if_pos ⟨rfl, by simp [hphase]⟩, PerPort.at_put_same]
    rw [State.replayed, ← acked_append_unacked s ws.owner d, List.filter_append, List.foldl_append] at law
    exact law
  · rw [WatchSet.folded, if_neg fun hc => ho hc.1, PerPort.at_put_ne _ _ ho]
    exact law

theorem law_configure {s : State} {named : LineId → Bool} (c : LineConfig) (hfree : ∀ l, named l = true → ¬ s.watches l)
    (h : s.snapshotLaw) : (s.updateLines fun l r => if named l then r.configure c else r).snapshotLaw := by
  intro w
  refine lawAt_keep (fun ws hs hp _ => ⟨hs, rfl, fun l hl => ?_⟩) (h w)
  have hn : ¬ named l = true := fun hn => hfree l hn ⟨w, ws, hs, by simp [hp], hl⟩
  simp [State.level, hn]

/-- The sets that a teardown leaves belong to the other session, and so do their records (R107). -/
theorem law_teardown {s : State} (p : Port) (h : s.snapshotLaw) : (s.teardown p).snapshotLaw := by
  intro w
  rw [level_of_lines (teardown_only s p .lines (by simp [hearBlocks]))]
  refine lawAt_keep (fun ws hs _ _ => ?_) (h w)
  rw [teardown_sets] at hs
  obtain ⟨hset, ho⟩ := Option.filter_eq_some_iff.mp hs
  have hne : ws.owner ≠ p := by simpa using ho
  refine ⟨hset, ?_, fun _ _ => rfl⟩
  simp [State.teardown, hne]

/-- A fresh open finds the journal of the CLOSED session empty (R94, R98). -/
theorem law_freshOpen {s : State} {p : Port} (prm : Params) (hst : (s.sessions.at p).state = .closed) (ho : s.owned)
    (h : s.snapshotLaw) : (s.freshOpen p prm).snapshotLaw := by
  refine law_same (s := s) rfl rfl ?_ h
  have hempty := (((owned_iff s).mp ho).2.2 p hst).1
  exact (congrArg (s.journals.put p) hempty.symm).trans (PerPort.put_at s.journals p)

/-- Every change keeps ownership, fit and snapshot law. -/
theorem change_keeps_law (s t : State) (c : Change s t) (h : (s.owned ∧ s.fitted) ∧ s.snapshotLaw) :
    (t.owned ∧ t.fitted) ∧ t.snapshotLaw := by
  refine ⟨change_keeps_fitted s t c h.1, ?_⟩
  obtain ⟨⟨howned, hf⟩, hlaw⟩ := h
  cases c with
  | quiet hq => exact law_same hq.level hq.sets hq.journals hlaw
  | sessionRecord hp hr =>
    exact fun w => lawAt_sameSet (append_sameSet s _ (by simp [Rec.ofSet, hr])) (hlaw w)
  | line l => exact law_takeLine ⟨howned, hf⟩ l hlaw
  | configure c hfree => exact law_configure c hfree hlaw
  | sent next hn =>
    exact fun w => lawAt_sameSet (putJournal_sameSet s (by rw [Journal.bound, records_sendFresh next hn]; rfl)) (hlaw w)
  | acknowledge d hp => exact law_acknowledge _ d hlaw
  | define mode hp hm hsorted hw => exact law_putSet_off (fun _ e => Option.some.inj e ▸ by simp [defined]) hlaw
  | snap hs hk => exact law_snap hs hk hf hlaw
  | disarm hs => exact law_void_off _ (by simp) hlaw
  | delete hs hi => exact law_putSet_off (by simp) hlaw
  | mark hs hu hm => exact law_mark hs hu hf hlaw
  | adopt hs ho hp hl =>
    rename_i p w ws
    refine law_same rfl rfl rfl (law_void_off p.other (w := w) (ws := { ws with owner := p, phase := ws.phase.adopt }) ?_ hlaw)
    cases ws.phase <;> simp [SetPhase.adopt]
  | teardown p => exact law_teardown p hlaw
  | freshOpen prm hst => exact law_freshOpen prm hst howned hlaw
  | silence p => exact law_of_only (changesOnly_mono (restartSilence_only s p) (by simp)) hlaw
  | lapse why hst hr => exact law_of_only (changesOnly_mono (lapse_retained_only why hst hr) (by simp)) hlaw
  | lossFlag flag hp => exact law_same (s := s) rfl rfl rfl hlaw
  | claim hp hl => exact law_same (s := s) rfl rfl rfl hlaw
  | outputs hp ho => exact law_same (s := s) rfl rfl rfl hlaw
  | grace o => exact law_same (s := s) rfl rfl rfl hlaw
  | resume old new hl => exact law_same (s := s) rfl rfl rfl hlaw

/-- Settles O59: the changes that a step is made of keep the law together with ownership and fit. -/
theorem everyStepKeepsTheSnapshotLaw : Obligations.EveryStepKeepsTheSnapshotLaw := fun _ _ ho hf hl h =>
  (step_keeps_of_changes change_keeps_law (fun s he => ⟨⟨emptied_owned he, emptied_fitted he⟩,
    fun w ws hw => by rw [he.sets w] at hw; contradiction⟩) ⟨⟨ho, hf⟩, hl⟩ h).2

end Sys2Proof.Machine
end

section
/-! PROOFS. The set requests: their first checks, and what each makes of a set of the requester (spec/02, 2.3). -/

namespace Sys2Proof.Machine

open Sys2Proof

/-! ### The first checks -/

/-- A set number above 15 is none (R34). -/
theorem arg16th_high {b : Nat} (hb : b < 256) (h : 16 ≤ b) (rest : List Byte) : arg16th (byteOf b :: rest) 0 = none := by
  rw [arg16th_eq hb, dif_neg (by omega)]

/-- The requests that act on an existing set of the requester (R34). -/
def ownSetKinds : List ReqKind := [.armSet, .disarmSet, .deleteSet, .ackSet, .resyncSet]

/-- Each of them makes the checks of `ownSet` first. -/
theorem rule_ownSet {k : ReqKind} (hk : k ∈ ownSetKinds) (p : Port) (payload : List Byte) (s : State) :
    ∃ own, ReqKind.rule k p payload s = ownSet p payload s own := by
  simp only [ownSetKinds, List.mem_cons, List.not_mem_nil, or_false] at hk
  rcases hk with rfl | rfl | rfl | rfl | rfl <;> exact ⟨_, rfl⟩

/-- Each of them carries the set number alone (R176). -/
theorem length_ownSet {k : ReqKind} (hk : k ∈ ownSetKinds) : k.length = 1 := by
  simp only [ownSetKinds, List.mem_cons, List.not_mem_nil, or_false] at hk
  rcases hk with rfl | rfl | rfl | rfl | rfl <;> rfl

/-- A set number above 15 is refused by every request that carries the number alone (R34). -/
theorem rule_highSet {k : ReqKind} (hk : k ∈ [ReqKind.armSet, .disarmSet, .deleteSet, .readSet, .ackSet, .resyncSet, .adoptSet])
    (p : Port) (s : State) {b : Nat} (hb : b < 256) (h : 16 ≤ b) :
    [byteOf b].length = k.length ∧ ReqKind.rule k p [byteOf b] s = refuse s .badArg := by
  have hnone := arg16th_high hb h []
  simp only [List.mem_cons, List.not_mem_nil, or_false] at hk
  rcases hk with rfl | rfl | rfl | rfl | rfl | rfl | rfl <;> refine ⟨rfl, ?_⟩
  · simp only [ReqKind.rule, armSetOwn, ownSet, hnone]
  · simp only [ReqKind.rule, disarmSetOwn, ownSet, hnone]
  · simp only [ReqKind.rule, deleteSetOwn, ownSet, hnone]
  · simp only [ReqKind.rule, readSetOwn, hnone]
  · simp only [ReqKind.rule, ackSetOwn, ownSet, hnone]
  · simp only [ReqKind.rule, resyncSetOwn, ownSet, hnone]
  · simp only [ReqKind.rule, adoptSetOwn, hnone]

/-- Settles O20: the number, then the set found, then its owner. -/
theorem setRequestsMakeTheirFirstChecks : Obligations.SetRequestsMakeTheirFirstChecks := by
  intro p s f b hb
  refine ⟨fun high => ⟨fun rest hrest h => ?_, fun k hk h => ?_⟩, fun k hk w hw h => ?_⟩
  · refine exec_answered h (by simp [hrest, ReqKind.length]) rfl ?_
    simp only [defineSetOwn, arg16th_high hb high, refuse]
  · obtain ⟨hlen, hrule⟩ := rule_highSet hk p (s.popRequest p) hb high
    exact exec_answered h hlen (exec_take k p s) hrule
  · subst hw
    obtain ⟨own, hown⟩ := rule_ownSet hk p [byteOf w.val] (s.popRequest p)
    refine ⟨fun hs => exec_answered h (length_ownSet hk).symm (exec_take k p s) ?_,
      fun ws hs ho => exec_answered h (length_ownSet hk).symm (exec_take k p s) ?_⟩
    · simp only [hown, ownSet, arg16th_set, popRequest_sets, hs, refuse]
    · simp only [hown, ownSet, arg16th_set, popRequest_sets, hs, if_neg ho, refuse]

/-! ### DEFINE_SET -/

/-- The payload of DEFINE_SET reads back: the set, the mode byte and the members (R176). -/
theorem defineArgs (w : SetId) {mode : Nat} (hm : mode < 256) (named : LineId → Bool) :
    let payload := [byteOf w.val, byteOf mode] ++ maskBytes 8 64 named
    arg16th payload 0 = some w ∧ arg8 payload 1 = mode ∧ argMask 64 payload 2 8 = linesNamed named := by
  refine ⟨arg16th_set w _, byteOf_small hm, ?_⟩
  simpa [linesNamed] using argMask_append (n := 64) (k := 8) rfl [byteOf w.val, byteOf mode] [] named

/-- A mode has an encoding up to 2 (R175). -/
theorem argMode_high {payload : List Byte} {i : Nat} (h : 3 ≤ arg8 payload i) : argMode payload i = none := by
  obtain ⟨n, hn⟩ := Nat.exists_eq_add_of_le h
  rw [argMode, hn, Nat.add_comm]
  rfl

/-- A mode reads back from its byte (R175). -/
theorem argMode_byte {payload : List Byte} {i : Nat} {m : SetMode} (h : arg8 payload i = m.byte.toNat) :
    argMode payload i = some m := by
  rw [argMode, h]
  cases m <;> rfl

/-- DEFINE_SET with a mode out of range or without a member (R35). -/
theorem defineSetOwn_badArg (p : Port) (s : State) (w : SetId) {mode : Nat} (hm : mode < 256) {named : LineId → Bool}
    (h : 3 ≤ mode ∨ ∀ l, named l = false) :
    defineSetOwn p ([byteOf w.val, byteOf mode] ++ maskBytes 8 64 named) s = refuse s .badArg := by
  obtain ⟨hw, hmode, hnamed⟩ := defineArgs w hm named
  rcases h with h | h
  · simp only [defineSetOwn, hw, argMode_high (hmode ▸ h)]
  · have hempty : (linesNamed named).isEmpty = true := (filter_isEmpty named).mpr h
    unfold defineSetOwn
    rw [hw, hnamed]
    split
    · exact if_pos hempty
    · rfl
    · rfl

/-- What DEFINE_SET makes of the set it finds (R35). -/
theorem defineSetOwn_eq (p : Port) (s : State) (w : SetId) {m : SetMode} {mode : Nat} (hm : mode = m.byte.toNat)
    {named : LineId → Bool} (hn : ∃ l, named l = true) :
    let outcome := defineSetOwn p ([byteOf w.val, byteOf mode] ++ maskBytes 8 64 named) s
    (∀ ws, s.sets.at w = some ws → ws.owner ≠ p → outcome = refuse s .notOwner) ∧
    (∀ ws, s.sets.at w = some ws → ws.owner = p → ws.phase ≠ .idle → outcome = refuse s .wrongState) ∧
    ((∀ ws, s.sets.at w = some ws → ws.owner = p ∧ ws.phase = .idle) →
      outcome = accept (s.putSet w (some (defined p m (linesNamed named)))) []) := by
  have hlt : mode < 256 := by subst hm; cases m <;> decide
  obtain ⟨hw, hmode, hnamed⟩ := defineArgs w hlt named
  have hne : ¬ (linesNamed named).isEmpty = true := fun he => (linesNamed_isEmpty named).mp he hn
  have hout := argMode_byte (hmode.trans hm)
  simp only [defineSetOwn, hw, hout, hnamed, if_neg hne]
  refine ⟨fun ws hs ho => ?_, fun ws hs ho hp => ?_, fun h => ?_⟩
  · simp only [hs, if_pos ho]
  · simp only [hs, if_neg (not_not.mpr ho), if_pos ((inUse_iff ws).mpr hp)]
  · rcases hs : s.sets.at w with _ | ws
    · rfl
    · obtain ⟨ho, hp⟩ := h ws hs
      have hu : ¬ ws.inUse = true := fun hu => (inUse_iff ws).mp hu hp
      simp only [if_neg (not_not.mpr ho), if_neg hu]

theorem defineSet_length (w : SetId) (b : Byte) (named : LineId → Bool) :
    ([byteOf w.val, b] ++ maskBytes 8 64 named).length = ReqKind.defineSet.length := by simp [ReqKind.length]

/-- What an accepted or refused DEFINE_SET answers (R35). -/
theorem defineSet_answers {p : Port} {s : State} {f : Frame} {w : SetId} {m : SetMode} {mode : Nat}
    (hm : mode = m.byte.toNat) {named : LineId → Bool} (hn : ∃ l, named l = true)
    (h : s.serves p .defineSet ([byteOf w.val, byteOf mode] ++ maskBytes 8 64 named) f) :
    (∀ ws, s.sets.at w = some ws → ws.owner ≠ p → exec (.defineSet p) s = .next (s.answered p f .notOwner [])) ∧
    (∀ ws, s.sets.at w = some ws → ws.owner = p → ws.phase ≠ .idle →
      exec (.defineSet p) s = .next (s.answered p f .wrongState [])) ∧
    ((∀ ws, s.sets.at w = some ws → ws.owner = p ∧ ws.phase = .idle) →
      exec (.defineSet p) s = .next ((s.putSet w (some (defined p m (linesNamed named)))).answered p f .ok [])) := by
  obtain ⟨notOwner, wrongState, accepted⟩ := defineSetOwn_eq p (s.popRequest p) w hm hn
  exact ⟨fun ws hs ho => exec_answered h (defineSet_length ..) rfl (notOwner ws hs ho),
    fun ws hs ho hp => exec_answered h (defineSet_length ..) rfl (wrongState ws hs ho hp),
    fun hw => exec_answered h (defineSet_length ..) rfl (accepted hw)⟩

/-- The frame of the other port waits on as a set is written and an answer placed (R36). -/
theorem serves_other {s : State} {p : Port} {k : ReqKind} {payload : List Byte} {f g : Frame} {st : Status}
    {rs : List Byte} {w : SetId} {x : Option WatchSet} (h : s.serves p.other k payload g) :
    ((s.putSet w x).answered p f st rs).serves p.other k payload g := by
  obtain ⟨⟨hr, hb, hl, hq⟩, hk, hp, ho⟩ := h
  have hport : ((s.putSet w x).answered p f st rs).ports.at p.other = s.ports.at p.other := by
    simp [State.answered, State.answeredAs]
  refine ⟨⟨hr, ?_, ?_, ?_⟩, hk, hp, ho⟩ <;> rw [hport] <;> assumption

/-- Settles O21: the checks in their order, and the loser of two definitions finds the set owned. -/
theorem defineSetDefinesASet : Obligations.DefineSetDefinesASet := by
  constructor
  · intro p s f w mode named hmode h
    refine ⟨fun hbad => exec_answered h (defineSet_length ..) rfl (defineSetOwn_badArg p _ w hmode hbad),
      fun m hm hn => ?_⟩
    have hbyte : mode = m.byte.toNat := by rw [hm]; cases m <;> rfl
    obtain ⟨notOwner, wrongState, accepted⟩ := defineSet_answers hbyte hn h
    dsimp only
    split
    · rename_i hs; exact accepted fun ws hws => by rw [hs] at hws; contradiction
    · rename_i ws hs
      split
      · rename_i ho; exact notOwner ws hs ho
      · rename_i ho
        split
        · rename_i hp
          exact accepted fun vs hvs => Option.some.inj (hs.symm.trans hvs) ▸ ⟨not_not.mp ho, hp⟩
        · rename_i hp; exact wrongState ws hs (not_not.mp ho) hp
  · intro p s f g w m n named others hs hn ho hf hg
    have byte : ∀ k : SetMode, k.byte = byteOf k.byte.toNat := fun k => by cases k <;> rfl
    rw [byte m] at hf
    rw [byte n] at hg
    have accepted := (defineSet_answers rfl hn hf).2.2 fun ws hws => by rw [hs] at hws; contradiction
    refine ⟨_, defined p m (linesNamed named), accepted, rfl, Tab.at_put_same .., rfl, rfl, ?_⟩
    exact (defineSet_answers rfl ho (serves_other hg)).1 _ (Tab.at_put_same ..) (Port.ne_other p)

/-! ### ARM_SET, ACK_SET and RESYNC_SET of a SUMMARY set -/

/-- A set request of the requester's own set that answers by its own rule. -/
theorem exec_ownSet {k : ReqKind} {c : Instr} {p : Port} {s u : State} {f : Frame} {w : SetId} {ws : WatchSet} {st : Status}
    {rs : List Byte} {own : Port → List Byte → State → Answer} {rule : SetId → WatchSet → Answer}
    (h : s.serves p k [byteOf w.val] f) (hk : k.length = 1) (he : exec c s = .next (takeRequest k own p s))
    (hs : s.sets.at w = some ws) (ho : ws.owner = p)
    (hown : own p [byteOf w.val] (s.popRequest p) = ownSet p [byteOf w.val] (s.popRequest p) rule)
    (hr : rule w ws = { state := u.popRequest p, status := st, results := rs }) :
    exec c s = .next (u.answered p f st rs) :=
  exec_answered h hk.symm he (by rw [hown, ownSet_eq hs ho, hr])

/-- The snapshot that a set takes of known levels, with its results (R37, R41, R45). -/
theorem snapSet_eq {s : State} {p : Port} {w : SetId} {ws : WatchSet} {levels : List Bool}
    (h : ws.members.map s.level = levels.map some) : (s.popRequest p).snapSet w ws =
      { state := State.popRequest (s.putSet w (some { ws with snapshot := some levels, phase := .armed, attention := false })) p
        status := .ok
        results := byteOf ws.members.length :: levelListBytes levels } := by
  obtain ⟨-, hlevels, hlen⟩ := levels_of (s := s.popRequest p) h
  simp only [State.snapSet, hlevels, accept, levelResults, hlen]
  rfl

/-- Settles O22: an IDLE set with known levels is armed, any other refused. -/
theorem armSetTakesTheLevels : Obligations.ArmSetTakesTheLevels := by
  intro p s f w ws h hs ho
  refine ⟨fun levels hi hl => exec_ownSet h rfl rfl hs ho rfl ?_, fun hbad => exec_ownSet h rfl rfl hs ho rfl ?_⟩
  · have hk : (s.popRequest p).levelsKnown ws = true := (levels_of (s := s.popRequest p) hl).1
    rw [if_neg (not_not.mpr hi), if_pos hk, snapSet_eq hl]
    rfl
  · by_cases hi : ws.phase = .idle
    · obtain ⟨l, hm, hl⟩ := hbad.resolve_left (not_not.mpr hi)
      have hk : ¬ (s.popRequest p).levelsKnown ws = true := fun hk => (levelsKnown_iff _ ws).mp hk l hm hl
      rw [if_neg (not_not.mpr hi), if_neg hk]
      rfl
    · rw [if_pos hi]; rfl

/-- Settles O26: an ARMED SUMMARY set is acknowledged, any other refused. -/
theorem ackSetAcknowledgesASummarySet : Obligations.AckSetAcknowledgesASummarySet := by
  intro p s f w ws h hs ho
  refine ⟨fun levels hm hp hl => exec_ownSet h rfl rfl hs ho rfl ?_, fun hbad => exec_ownSet h rfl rfl hs ho rfl ?_⟩
  · rw [if_pos ⟨hm, hp⟩, snapSet_eq hl, ← hp]
    rfl
  · rw [if_neg (by tauto)]
    rfl

/-! ### DISARM_SET and DELETE_SET -/

/-- The journal in which a set is voided, in the terms of the statements (R57, R66). -/
theorem voided_eq (w : SetId) (j : Journal) : (j.dropUnsentOf w).voidInflightOf w =
    { inflight := j.inflight.map fun x =>
        if x.entry.body.set? = some w then { x with entry := { x.entry with body := .void w } } else x
      unsent := j.unsent.filter fun r => decide (r.body.set? ≠ some w) } := by
  simp only [Journal.voidInflightOf, Journal.dropUnsentOf, Rec.ofSet, Rec.toVoid, decide_eq_true_eq, decide_not]

/-- Settles O23: a set in use is voided and IDLE, an IDLE one refused. -/
theorem disarmSetVoidsTheRecords : Obligations.DisarmSetVoidsTheRecords := by
  intro p s f w ws h hs ho
  refine ⟨fun hu => exec_ownSet h rfl rfl hs ho rfl ?_, fun hi => exec_ownSet h rfl rfl hs ho rfl ?_⟩
  · rw [if_pos ((inUse_iff ws).mpr hu), ← voided_eq]
    rfl
  · rw [if_neg fun hu => (inUse_iff ws).mp hu hi]
    rfl

/-- Settles O24: an IDLE set is FREE, a set in use refused. -/
theorem deleteSetFreesAnIdleSet : Obligations.DeleteSetFreesAnIdleSet := by
  intro p s f w ws h hs ho
  refine ⟨fun hi => exec_ownSet h rfl rfl hs ho rfl ?_, fun hu => exec_ownSet h rfl rfl hs ho rfl ?_⟩
  · rw [if_neg (not_not.mpr hi)]
    rfl
  · rw [if_pos hu]
    rfl

/-! ### RESYNC_SET of a record-mode set -/

/-- RESYNC_SET of a record-mode set in use asks for its mark (R43). -/
theorem resyncSetOwn_records {s : State} {p : Port} {w : SetId} {ws : WatchSet} (hs : s.sets.at w = some ws) (ho : ws.owner = p)
    (hu : ws.phase ≠ .idle) (hm : ws.mode ≠ .summary) :
    resyncSetOwn p [byteOf w.val] (s.popRequest p) = (s.popRequest p).resyncRecords p w ws := by
  rw [resyncSetOwn, ownSet_eq hs ho, if_pos ((inUse_iff ws).mpr hu)]
  cases hmode : ws.mode with
  | each => rfl
  | latest => rfl
  | summary => exact absurd hmode hm

/-- The mark is admitted with the holding that the removal leaves, or nothing changes (R43, R44, R48). -/
theorem resyncRecords_eq (s : State) (p : Port) (w : SetId) {ws : WatchSet} {levels : List Bool}
    (hl : ws.members.map s.level = levels.map some) :
    let j := s.journals.at p
    let kept := j.unsent.filter fun r => decide (r.body.set? ≠ some w)
    let h := j.inflight.length + kept.length
    let room := h < 64 ∨ (h < 192 ∧ (h - 64) + ((s.journals.at p.other).holding - 64) < 128)
    (room → s.resyncRecords p w ws = accept
      { s with
        journals := s.journals.put p { j with unsent := kept ++ [{ stamp := s.time, body := .resyncMark w levels }] }
        sets := s.sets.put w (some { ws with phase := .armed }) }
      (byteOf ws.members.length :: levelListBytes levels)) ∧
    (¬ room → s.resyncRecords p w ws = refuse s .noRoom) := by
  intro j kept h room
  obtain ⟨-, hlevels, hlen⟩ := levels_of hl
  have hdrop : (s.journals.at p).dropUnsentOf w = { j with unsent := kept } := by
    simp only [Journal.dropUnsentOf, Rec.ofSet, kept, decide_not, j]
  have hroom : (s.putJournal p ((s.journals.at p).dropUnsentOf w)).canAdmit p = true ↔ room := by
    rw [room_iff, State.putJournal_journals, PerPort.at_put_same, PerPort.at_put_ne _ _ (Port.other_ne p), hdrop]
    rfl
  constructor
  · intro hr
    simp only [State.resyncRecords, State.tryAdmit, if_pos (hroom.mpr hr)]
    simp only [State.append, State.resyncMark, hlevels, State.putJournal_journals, PerPort.at_put_same, hdrop, levelResults, hlen]
    simp only [State.putJournal, State.putSet, PerPort.put_put]
  · intro hr
    simp only [State.resyncRecords, State.tryAdmit, if_neg fun hc => hr (hroom.mp hc)]

/-- Settles O27: a record-mode set is armed by its mark, a SUMMARY set by a new snapshot, an IDLE set refused. -/
theorem resyncSetAdmitsAMark : Obligations.ResyncSetAdmitsAMark := by
  constructor
  · intro p s f w ws h hs ho
    refine ⟨fun levels hu hm hl => ?_, fun hi => exec_ownSet h rfl rfl hs ho rfl ?_⟩
    · obtain ⟨admitted, noRoom⟩ := resyncRecords_eq (s.popRequest p) p w (ws := ws) (levels := levels) hl
      have asks := resyncSetOwn_records hs ho hu hm
      exact ⟨fun hr => exec_answered h rfl rfl (asks.trans (admitted hr)),
        fun hr => exec_answered h rfl rfl (asks.trans (noRoom hr))⟩
    · rw [if_neg fun hu => (inUse_iff ws).mp hu hi]
      rfl
  · intro p s f w ws levels h hs ho hu hm hl
    refine exec_ownSet h rfl rfl hs ho rfl ?_
    simp only [if_pos ((inUse_iff ws).mpr hu), hm]
    rw [snapSet_eq hl, ← hm]
    rfl

end Sys2Proof.Machine
end

section
/-! PROOFS. READ_SET: the report of a set, its mismatch, and the masks of a session (spec/02, 2.1 and 2.3). -/

namespace Sys2Proof.Machine

open Sys2Proof

/-- The owner in one byte (R175). -/
theorem ownerByte_some (p : Port) : ownerByte (some p) = match p with
    | .A => 1
    | .B => 2 := by cases p <;> rfl

/-- The phase in one byte (R175). -/
theorem phase_byte (x : SetPhase) : x.byte = match x with
    | .idle => 1
    | .armed => 2
    | .stale _ => 3 := by cases x <;> rfl

/-- The stale reason in one byte (R175). -/
theorem phase_reasonByte (x : SetPhase) : x.reasonByte = match x with
    | .stale .overrun => 1
    | .stale .adopted => 2
    | .idle | .armed => 0 := by
  rcases x with _ | _ | (_ | _) <;> rfl

/-- The mode in one byte (R175). -/
theorem mode_byte (m : SetMode) : m.byte = match m with
    | .each => 0
    | .latest => 1
    | .summary => 2 := by cases m <;> rfl

/-- Whether there is a snapshot, in one byte (R177). -/
theorem flagByte_isSome {α : Type} [DecidableEq α] (o : Option α) : flagByte o.isSome = if o = none then 0 else 1 := by
  cases o <;> rfl

/-- The members whose D is known and high (R177). -/
theorem and_high (p : Prop) [Decidable p] (level : Option Bool) :
    (decide p && level.getD false) = decide (p ∧ level = some true) := by
  cases level <;> simp

/-- The members whose D is unknown (R177). -/
theorem and_unknown (p : Prop) [Decidable p] (level : Option Bool) :
    (decide p && level.isNone) = decide (p ∧ level = none) := by
  cases level <;> simp

/-- The snapshot level of a line, as the statement reads it (R177). -/
theorem snapshotLevel_eq (ws : WatchSet) (l : LineId) : ws.snapshotLevel l =
    match ws.snapshot with
    | none => false
    | some levels => ((ws.members.zip levels).find? fun m => m.1 = l).any Prod.snd := by
  unfold WatchSet.snapshotLevel
  cases ws.snapshot with
  | none => rfl
  | some levels => dsimp only; cases (ws.members.zip levels).find? fun m => m.1 = l <;> rfl

/-- The records of a set that a journal holds, counted (R177). -/
theorem heldOf_eq (w : SetId) (j : Journal) :
    j.heldOf w = (j.inflight.map Sent.entry ++ j.unsent).countP fun r => decide (r.body.set? = some w) := by
  rw [Journal.heldOf, List.countP_eq_length_filter]
  rfl

/-- The members that mismatch a snapshot: those whose D is unknown or another level (R25). -/
theorem mem_mismatch {ws : WatchSet} {levels : List Bool} (h : ws.snapshot = some levels) (level : LineId → Option Bool)
    (l : LineId) : l ∈ ws.mismatch level ↔ ∃ b, (l, b) ∈ ws.members.zip levels ∧ level l ≠ some b := by
  simp [WatchSet.mismatch, mismatchOf, h]

/-- The stale mask of a session names its STALE sets (R25). -/
theorem staleMask_iff (s : State) (p : Port) (w : SetId) : s.staleMask p w = true ↔
    ∃ ws, s.sets.at w = some ws ∧ ws.owner = p ∧ ∃ why, ws.phase = .stale why := by
  unfold State.staleMask
  cases s.sets.at w with
  | none => simp
  | some ws =>
    have stale : ws.isStale = true ↔ ∃ why, ws.phase = .stale why := by
      unfold WatchSet.isStale
      cases ws.phase <;> simp
    simp [stale]

/-- The attention mask of a session names its sets whose flag is set (R25). -/
theorem attentionMask_iff (s : State) (p : Port) (w : SetId) : s.attentionMask p w = true ↔
    ∃ ws, s.sets.at w = some ws ∧ ws.owner = p ∧ ws.attention = true := by
  unfold State.attentionMask
  cases s.sets.at w with
  | none => simp
  | some ws => simp

/-- Settles O25: the report field by field, then the mismatch and the masks. -/
theorem readSetReportsAnySet : Obligations.ReadSetReportsAnySet := by
  refine ⟨fun p s f w h => ⟨fun hs => exec_answered h rfl rfl ?_, fun ws hs => exec_answered h rfl rfl ?_⟩,
    fun ws level l => ⟨fun h => ?_, fun levels h _ _ => mem_mismatch h level l⟩,
    fun s p w => ⟨staleMask_iff s p w, attentionMask_iff s p w⟩⟩
  · simp only [readSetOwn, arg16th_set, popRequest_sets, hs, refuse]
  · simp only [readSetOwn, arg16th_set, popRequest_sets, hs, accept, readSetResults, snapshotLevel_eq, heldOf_eq]
    rw [ownerByte_some, phase_byte, phase_reasonByte, mode_byte, flagByte_isSome, flagByte]
    simp only [and_high, and_unknown]
    rfl
  · simp [WatchSet.mismatch, mismatchOf, h]

end Sys2Proof.Machine
end

section
/-! PROOFS. What an ARMED record-mode set makes of an event of a line that it follows (spec/02, 2.2; spec/03, 3.2). -/

namespace Sys2Proof.Machine

open Sys2Proof

/-- A record-mode set asks for the record of every event but a change (R30). -/
theorem hearSet_chatter {s : State} {l : LineId} {w : SetId} {ws : WatchSet} (hs : s.sets.at w = some ws)
    (hp : ws.phase = .armed) (hl : l ∈ ws.members) (hm : ws.mode ≠ .summary) {e : LineEvent}
    (he : ∀ level stamp, e ≠ .change level stamp) : s.hearSet w l e = s.admitForSet w ws (e.record w l) := by
  rw [hearSet_armed hs hp hl]
  cases hmode : ws.mode with
  | each => rfl
  | latest =>
    cases e with
    | change level stamp => exact absurd rfl (he level stamp)
    | chatterStart | chatterEnd => rfl
  | summary => exact absurd hmode hm

/-- An ARMED EACH set asks for the record of every event of a member (R27). -/
theorem hearSet_armedEach {s : State} {l : LineId} {w : SetId} {ws : WatchSet} (hs : s.sets.at w = some ws)
    (hp : ws.phase = .armed) (hl : l ∈ ws.members) (hm : ws.mode = .each) (e : LineEvent) :
    s.recordAsked w ws (e.record w l) (s.hearSet w l e) := by
  rw [hearSet_armed hs hp hl, hm]
  exact admitForSet_asked ..

/-- An ARMED LATEST set absorbs a change of a member (R28). -/
theorem hearSet_armedLatest {s : State} {l : LineId} {w : SetId} {ws : WatchSet} (hs : s.sets.at w = some ws)
    (hp : ws.phase = .armed) (hl : l ∈ ws.members) (hm : ws.mode = .latest) (level : Bool) (stamp : Time) :
    s.changeAbsorbed w ws l level stamp (s.hearSet w l (.change level stamp)) := by
  rw [hearSet_armed hs hp hl, hm]
  exact hearLatest_absorbs ..

/-- The one record-mode set that follows a field line asks for the record of an event but a change (R30, R31). -/
theorem raises_chatter {s : State} {l : LineId} {c : Instr} {e : LineEvent} {after : LineRec} {w : SetId} {ws : WatchSet}
    (h : s.raises l c e after) (hl : l.val < 48) (hf : s.followedBy l w ws) (hm : ws.mode ≠ .summary)
    (he : ∀ level stamp, e ≠ .change level stamp) :
    ∃ t, exec c s = .next t ∧
      ({ s with lines := s.lines.put l after, choice := s.choice + 1 } : State).recordAsked w ws (e.record w l) t := by
  have ⟨hs, hp, hmem, _⟩ := hf
  refine ⟨_, raises_followed h hl hf, ?_⟩
  have hears := hearSet_chatter (s := { s with lines := s.lines.put l after, choice := s.choice + 1 }) hs hp hmem hm he
  exact hears ▸ admitForSet_asked ..

/-- Settles O40: EACH sets ask for the record of a change, record-mode sets for those of a chatter. -/
theorem recordModeSetsRecordTheEvents : Obligations.RecordModeSetsRecordTheEvents := by
  refine ⟨fun s l d stamp expiry x w ws hr h hl hf hm => ?_, ?_,
    fun s l w ws level changed stamp hs hp hl hm => ?_⟩
  · exact ⟨_, raises_each (raises_change hr h) hl hf hm, admitForSet_asked ..⟩
  · intro s l d x w ws hr r hw hl hf hm
    simp only [r, expireWindow_state, expireWindow_config, expireWindow_lastRaw]
    exact ⟨fun quiet hs hq hlast => raises_chatter (raises_calm hr hw hs hq hlast) hl hf hm (by simp),
      fun stamp expiry hs he hx h0 hc => raises_chatter (raises_freeze hr hw hs he hx h0 hc) hl hf hm (by simp)⟩
  · have asks : ∀ e : LineEvent, (∀ a b, e ≠ .change a b) → s.recordAsked w ws (e.record w l) (s.hearSet w l e) :=
      fun e he => hearSet_chatter hs hp hl hm he ▸ admitForSet_asked ..
    refine ⟨asks (.chatterStart level stamp) (by simp), asks (.chatterEnd level stamp changed) (by simp), fun heach => ?_⟩
    exact hearSet_armedEach hs hp hl heach (.change level stamp)

/-- Settles O41: the one LATEST set that follows the line, and any that hears a change, absorbs it. -/
theorem aLatestSetAbsorbsTheChange : Obligations.ALatestSetAbsorbsTheChange := by
  refine ⟨fun s l d stamp expiry x w ws hr h hl hf hm => ⟨_, raises_followed (raises_change hr h) hl hf, ?_⟩,
    fun s l w ws level stamp hs hp hl hm => hearSet_armedLatest hs hp hl hm level stamp⟩
  obtain ⟨hs, hp, hmem, -⟩ := hf
  exact hearSet_armedLatest (s := { s with lines := s.lines.put l ((s.lines.at l).changed s.now d x), choice := s.choice + 1 })
    hs hp hmem hm (!d) stamp

end Sys2Proof.Machine
end

section
/-! PROOFS. ACK: the records it removes, what they make of the snapshots, and the engine after it (spec/04, 4.3). -/

namespace Sys2Proof.Machine

open Sys2Proof

/-- The number of an ACK reads back (R175). -/
theorem ackArg (n : Seq) : BitVec.ofNat 16 (argLe (leBytes 2 n.toNat) 0 2) = n := by
  have h : argLe (leBytes 2 n.toNat) 0 2 = n.toNat % 256 ^ 2 := by
    simpa only [List.nil_append, List.append_nil, List.length_nil] using argLe_append [] [] 2 n.toNat
  rw [h, Nat.mod_eq_of_lt (show n.toNat < 256 ^ 2 from n.isLt), BitVec.ofNat_toNat, BitVec.setWidth_eq]

/-- An ACK refused or accepted, by its distance (R86, R89). -/
theorem ackOwn_eq (s : State) (p : Port) (n : Seq) : ackOwn p (leBytes 2 n.toNat) s =
    if 255 < s.ackDistance p n then refuse s .badAck
    else accept (s.acknowledge p (s.ackDistance p n)) (byteOf ((s.journals.at p).inflight.length - s.ackDistance p n) ::
      leBytes 2 ((s.acknowledge p (s.ackDistance p n)).oldestInflight p).toNat) := by
  simp only [ackOwn, ackArg]

/-- An ACK that no INFLIGHT record lies behind changes nothing (R87). -/
theorem acknowledge_none {s : State} {p : Port} {d : Nat} (h : (s.journals.at p).inflight.length ≤ d) :
    s.acknowledge p d = s := by
  simp [State.acknowledge, Nat.sub_eq_zero_of_le h]

/-- The engine after an ACK that removed a record, in the terms of the statement (R84, R89). -/
theorem engineAcked_eq (e : Engine) (restart : Nat) (removed left : List Sent) : e.acked restart removed left =
    { e with
      retryCount := 0
      retransmit := if left = [] then none else some restart
      goBack := match e.goBack with
        | none => none
        | some r =>
          if left = [] then none else if r ∈ removed.map Sent.seq then left.head?.map Sent.seq else some r } := by
  unfold Engine.acked goBackAfterAck
  cases left with
  | nil => cases e.goBack <;> simp
  | cons x left => cases e.goBack <;> simp

/-- An ACK that an INFLIGHT record lies behind: the records removed fold into the sets, and the engine follows (R87 to R89). -/
theorem acknowledge_some {s : State} {p : Port} {d : Nat} {prm : Params} {silence : Nat}
    (ho : (s.sessions.at p).state = .opened prm silence) (h : d < (s.journals.at p).inflight.length) :
    let j := s.journals.at p
    let removed := j.inflight.take (j.inflight.length - d)
    let left := j.inflight.drop (j.inflight.length - d)
    s.acknowledge p d =
      { s with
        sets := s.sets.update fun w ws => ws.map fun x =>
          if x.owner = p ∧ x.phase ≠ .idle then
            { x with
              snapshot := ((removed.map Sent.entry).filter fun r => decide (r.body.set? = some w)).foldl
                (fun snap r => r.body.fold x.members snap) x.snapshot }
          else x
        journals := s.journals.put p { j with inflight := left }
        engines := s.engines.put p ((s.engines.at p).acked (s.now + 4 * prm.retryTimeout) removed left) } := by
  intro j removed left
  have hne : ¬ removed.isEmpty = true := by
    simp only [removed, List.isEmpty_iff, ← List.length_eq_zero_iff, List.length_take, j]
    omega
  have hrestart : s.retransmitExpiry p = s.now + 4 * prm.retryTimeout := by
    rw [State.retransmitExpiry, ho]
    rfl
  rw [State.acknowledge, if_neg hne, foldl_foldRecord, hrestart]
  rfl

/-- Settles O29: by the distance refused, accepted without effect, or accepted with records removed. -/
theorem ackFoldsAndRemoves : Obligations.AckFoldsAndRemoves := by
  constructor
  · intro p s f n prm silence h ho e j d k removed left oldest
    have answers := fun u st rs => exec_answered (c := .ack p) (u := u) (st := st) (rs := rs) h (leBytes_length ..) rfl
    have hdistance : (s.popRequest p).ackDistance p n = d := rfl
    refine ⟨fun hd => answers _ _ _ ?_, fun hd hk => answers _ _ _ ?_, fun hd hk => answers _ _ _ ?_⟩
    · rw [ackOwn_eq, hdistance]
      exact if_pos hd
    · have hle : ((s.popRequest p).journals.at p).inflight.length ≤ d := hk
      rw [ackOwn_eq, hdistance, if_neg (not_lt.mpr hd), acknowledge_none hle, Nat.sub_eq_zero_of_le hle]
      simp only [oldest, left, Nat.sub_eq_zero_of_le hk]
      rfl
    · rw [ackOwn_eq, hdistance, if_neg (not_lt.mpr hd), acknowledge_some (s := s.popRequest p) ho hk, engineAcked_eq]
      simp only [State.oldestInflight, PerPort.at_put_same]
      rfl
  · intro members snap levels w l level folded o old new driven readback _ _
    exact ⟨rfl, rfl, rfl, rfl, rfl, rfl, rfl⟩

end Sys2Proof.Machine
end

section
/-! PROOFS. The bounds: the pool within its quotas, and the queues of the ports (spec/03, spec/09; R47, R48, R168). -/

namespace Sys2Proof.Machine

open Sys2Proof

/-! ### The pool within its quotas -/

/-- The quotas, seen from either session. -/
theorem poolKept_iff (s : State) (p : Port) : s.poolKept ↔ (s.journals.at p).holding ≤ 192 ∧
    (s.journals.at p.other).holding ≤ 192 ∧
    ((s.journals.at p).holding - 64) + ((s.journals.at p.other).holding - 64) ≤ 128 := by
  constructor
  · rintro ⟨hcap, hshared⟩
    refine ⟨hcap p, hcap p.other, ?_⟩
    cases p
    · exact hshared
    · exact (Nat.add_comm ..).trans_le hshared
  · rintro ⟨hp, ho, hshared⟩
    cases p
    · exact ⟨fun | .A => hp | .B => ho, hshared⟩
    · exact ⟨fun | .A => ho | .B => hp, (Nat.add_comm ..).trans_le hshared⟩

/-- The quotas hang on the journals alone. -/
theorem poolKept_of_only {s t : State} {bs : List Block} (h : s.changesOnly bs t) (hb : Block.journals ∉ bs)
    (hs : s.poolKept) : t.poolKept := by
  have hj : t.journals = s.journals := h .journals hb
  unfold State.poolKept
  rwa [hj]

/-- One journal that holds no more than before. -/
theorem poolKept_putJournal {s : State} {p : Port} {j : Journal} (hj : j.holding ≤ (s.journals.at p).holding)
    (hs : s.poolKept) : (s.putJournal p j).poolKept := by
  rw [poolKept_iff _ p] at hs ⊢
  simp only [State.putJournal_journals, PerPort.at_put_same, PerPort.at_put_ne _ _ (Port.other_ne p)]
  omega

/-- A journal that is emptied. -/
theorem poolKept_of_emptied {s t : State} {p : Port} (h : t.journals = s.journals.put p Journal.empty) (hs : s.poolKept) :
    t.poolKept := by
  have hput : (s.putJournal p Journal.empty).poolKept := poolKept_putJournal (Nat.zero_le _) hs
  unfold State.poolKept
  rwa [h]

/-- An admission keeps the quotas: that is what it checks (R48). -/
theorem poolKept_append {s : State} {p : Port} (r : Rec) (hc : s.canAdmit p = true) (hs : s.poolKept) :
    (s.append p r).poolKept := by
  rw [room_iff] at hc
  rw [poolKept_iff _ p] at hs ⊢
  have hmore : ({ s.journals.at p with unsent := (s.journals.at p).unsent ++ [r] } : Journal).holding =
      (s.journals.at p).holding + 1 := by
    simp [Journal.holding, Nat.add_assoc]
  simp only [State.append, State.putJournal_journals, PerPort.at_put_same, PerPort.at_put_ne _ _ (Port.other_ne p), hmore]
  omega

/-- What sets and outputs do with news keeps the quotas. -/
theorem poolKept_hearClosed : HearClosed State.poolKept where
  append _ _ r hc hs := poolKept_append r hc hs
  overrun s w ws _ hs := poolKept_of_only (overrun_only s w ws) (by simp) hs
  loss s p hs := poolKept_of_only (noteLoss_only s p) (by simp) hs
  absorb s p us hlen hs := poolKept_putJournal (by simp [Journal.holding, hlen]) hs
  attend _ _ _ _ hs := hs
  output _ _ _ _ hs := hs
  line _ _ _ hs := hs
  choice _ _ hs := hs

/-- The removal of a set's UNSENT records (R66). -/
theorem dropUnsentOf_holding (w : SetId) (j : Journal) : (j.dropUnsentOf w).holding ≤ j.holding :=
  Nat.add_le_add_left (List.length_filter_le ..) _

/-- A conversion to VOID keeps every record in its place (R57). -/
theorem voidInflightOf_holding (w : SetId) (j : Journal) : (j.voidInflightOf w).holding = j.holding := by
  simp [Journal.voidInflightOf, Journal.holding]

theorem poolKept_voidSet {s : State} (p : Port) (w : SetId) (hs : s.poolKept) : (s.voidSet p w).poolKept :=
  poolKept_putJournal ((voidInflightOf_holding ..).trans_le (dropUnsentOf_holding ..)) hs

/-- Records sent for the first time change their state, not their number (R77). -/
theorem sendFresh_holding {j : Journal} {fresh : List Rec} (next : Seq) (h : fresh <+: j.unsent) :
    (j.sendFresh next fresh).holding = j.holding := by
  have := h.length_le
  simp only [Journal.sendFresh, Journal.holding, List.length_append, number_length, List.length_drop]
  omega

theorem poolKept_buildNotice {s : State} (p : Port) (hs : s.poolKept) : (s.buildNotice p).poolKept := by
  unfold State.buildNotice
  split
  · exact hs
  · split
    · exact poolKept_putJournal (s := s.putPort p _) (sendFresh_holding _ (fresh_prefix ..)).le hs
    · exact hs

theorem poolKept_teardown {s : State} (p : Port) (hs : s.poolKept) : (s.teardown p).poolKept := poolKept_of_emptied rfl hs

theorem poolKept_freshOpen {s : State} (p : Port) (prm : Params) (hs : s.poolKept) : (s.freshOpen p prm).poolKept :=
  poolKept_of_emptied rfl hs

theorem poolKept_lapse {s : State} (p : Port) (why : LapseReason) (hs : s.poolKept) : (s.lapse p why).poolKept := by
  unfold State.lapse
  split
  · exact hs
  · exact hs
  · split
    · exact poolKept_teardown p hs
    · exact hs

theorem poolKept_expireRetransmit {s : State} (p : Port) (hs : s.poolKept) : (s.expireRetransmit p).poolKept := by
  unfold State.expireRetransmit
  dsimp only
  split
  · split
    · exact hs
    · split
      · exact poolKept_lapse (s := s.putEngine p _) p _ hs
      · exact hs
  · exact hs

/-! ### The requests that write journals -/

theorem poolKept_openOwn {s : State} (p : Port) (payload : List Byte) (hs : s.poolKept) :
    (openOwn p payload s).state.poolKept := by
  have again : ∀ prm, ((s.teardown p).freshOpen p prm).poolKept := fun prm =>
    poolKept_freshOpen p prm (poolKept_teardown p hs)
  unfold openOwn
  split
  · split
    · exact poolKept_freshOpen p _ hs
    · split
      · exact again _
      · exact hs
    · split
      · exact hs
      · exact again _
  · exact hs
  · exact hs

theorem poolKept_configLineOwn {s : State} (p : Port) (payload : List Byte) (hs : s.poolKept) :
    (configLineOwn p payload s).state.poolKept := by
  unfold configLineOwn
  dsimp only
  split
  · exact hs
  · split
    · exact hs
    · split
      · exact hs
      · exact poolKept_hearClosed.reconf (s.updateLines _) _ hs

theorem poolKept_resyncRecords {s : State} (p : Port) (w : SetId) (ws : WatchSet) (hs : s.poolKept) :
    (s.resyncRecords p w ws).state.poolKept := by
  have hcleared := poolKept_putJournal (dropUnsentOf_holding w (s.journals.at p)) hs
  unfold State.resyncRecords State.tryAdmit
  dsimp only
  by_cases hc : (s.putJournal p ((s.journals.at p).dropUnsentOf w)).canAdmit p = true
  · rw [if_pos hc]; exact poolKept_append (s.resyncMark w ws) hc hcleared
  · rw [if_neg hc]; exact hs

theorem poolKept_resyncSetOwn {s : State} (p : Port) (payload : List Byte) (hs : s.poolKept) :
    (resyncSetOwn p payload s).state.poolKept := by
  refine keeps_ownSet hs fun w ws _ _ => ?_
  split
  · split
    · exact poolKept_resyncRecords p w ws hs
    · exact poolKept_resyncRecords p w ws hs
    · exact hs
  · exact hs

theorem poolKept_disarmSetOwn {s : State} (p : Port) (payload : List Byte) (hs : s.poolKept) :
    (disarmSetOwn p payload s).state.poolKept := by
  refine keeps_ownSet hs fun w ws _ _ => ?_
  split
  · exact poolKept_voidSet p w hs
  · exact hs

theorem poolKept_adoptSetOwn {s : State} (p : Port) (payload : List Byte) (hs : s.poolKept) :
    (adoptSetOwn p payload s).state.poolKept := by
  unfold adoptSetOwn
  split
  · exact hs
  · split
    · exact hs
    · split
      · exact hs
      · split
        · exact poolKept_voidSet p.other _ hs
        · exact hs

/-- An acknowledgement only removes records (R87). -/
theorem poolKept_acknowledge {s : State} (p : Port) (d : Nat) (hs : s.poolKept) : (s.acknowledge p d).poolKept := by
  have hput : (s.putJournal p (s.unacked p d)).poolKept := by
    refine poolKept_putJournal ?_ hs
    simp only [State.unacked, Journal.holding, List.length_drop]
    omega
  unfold State.poolKept
  rwa [acknowledge_journals]

theorem poolKept_ackOwn {s : State} (p : Port) (payload : List Byte) (hs : s.poolKept) :
    (ackOwn p payload s).state.poolKept := by
  unfold ackOwn
  dsimp only
  split
  · exact hs
  · exact poolKept_acknowledge p _ hs

/-- Every request's own rule keeps the quotas; most write no journal. -/
theorem poolKept_rule (k : ReqKind) {s : State} (p : Port) (payload : List Byte) (hr : s.resetPeriod = none)
    (hs : s.poolKept) : (ReqKind.rule k p payload s).state.poolKept := by
  cases k with
  | openSession => exact poolKept_openOwn p payload hs
  | close => exact poolKept_teardown p hs
  | setTime => exact poolKept_hearClosed.setTime (fun _ _ _ _ h => h) s _ hs
  | configLine => exact poolKept_configLineOwn p payload hs
  | readLines =>
    exact finishSample_keeps (fun s l _ h => poolKept_hearClosed.takeLine s l h) (fun _ _ _ h => h) s hr hs
  | resyncSet => exact poolKept_resyncSetOwn p payload hs
  | disarmSet => exact poolKept_disarmSetOwn p payload hs
  | adoptSet => exact poolKept_adoptSetOwn p payload hs
  | ack => exact poolKept_ackOwn p payload hs
  | hello | ping | readLineConfig | readSet | readCounters | defineSet | armSet | deleteSet | ackSet | journalStatus
  | claimOutput | releaseOutput | writeOutputs | configOutput | readOutputs | restart =>
    exact poolKept_of_only (rule_only _ p payload s) (by simp [ReqKind.writes]) hs

/-- The emptied part holds no record. -/
theorem emptied_poolKept {s : State} (h : s.Emptied) : s.poolKept := by
  unfold State.poolKept
  simp [h.journals, Journal.empty, Journal.holding]

/-- Every part of every command keeps the quotas. -/
theorem poolKept_closed : Closed State.poolKept where
  own k p payload _ hr hs _ _ := poolKept_rule k p payload hr hs
  pop _ _ _ hs := hs
  respond _ _ _ _ _ _ _ hs _ := hs
  line s l _ hs := poolKept_hearClosed.takeLine s l hs
  notice _ p _ hs := poolKept_buildNotice p hs
  retransmit _ p _ hs := poolKept_expireRetransmit p hs
  silence s p _ hs := by
    unfold State.expireSilence
    split
    · exact poolKept_lapse p _ hs
    · exact hs
  retain s p _ hs := by
    unfold State.expireRetain
    split
    · exact poolKept_teardown p hs
    · exact hs
  grace _ _ _ hs := hs
  verify s o _ hs := poolKept_hearClosed.verify s o hs
  receive s p c x _ hs := poolKept_of_only (receive_only s p c x) (by simp) hs
  gap s p _ hs := poolKept_of_only (expireGap_only s p) (by simp) hs
  send s p _ hs := poolKept_of_only (sendResponse_only s p) (by simp) hs
  ends s p _ hs := poolKept_of_only (endFrame_only s p) (by simp) hs
  idle _ _ _ hs := hs
  choice _ _ _ hs := hs
  tick _ _ _ hs := hs
  asserted _ _ := emptied_poolKept (emptied_blocksReset _)
  sources _ _ _ _ hs := hs
  released s x hs := by
    rcases endReset_cases s x with h | h
    · rwa [h]
    · exact emptied_poolKept h
  queue _ _ hs := hs

/-! ### The queues of the ports -/

/-- Both queues of a port are within their depth (R168). -/
def LinkPort.queuesFit (port : LinkPort) : Prop := port.requests.length ≤ 4 ∧ port.responses.length ≤ 4

/-- The queues hang on the ports alone. -/
theorem queuesKept_of_only {s t : State} {bs : List Block} (h : s.changesOnly bs t) (hb : Block.ports ∉ bs)
    (hs : s.queuesKept) : t.queuesKept := by
  have hp : t.ports = s.ports := h .ports hb
  unfold State.queuesKept
  rwa [hp]

/-- One port whose queues are within their depth. -/
theorem queuesKept_putPort {s : State} {p : Port} {port : LinkPort} (hport : port.queuesFit) (hs : s.queuesKept) :
    (s.putPort p port).queuesKept := by
  intro q
  rw [State.putPort_ports, PerPort.at_put]
  split
  · exact hport
  · exact hs q

/-- A request's own rule writes no queue (R165). -/
theorem queuesKept_rule (k : ReqKind) {s : State} (p : Port) (payload : List Byte) (hs : s.queuesKept) :
    (ReqKind.rule k p payload s).state.queuesKept := by
  obtain ⟨hresponses, hother, hrequests⟩ := rule_responses k p payload s
  intro q
  by_cases hq : q = p
  · subst hq; rw [hresponses, hrequests]; exact hs q
  · rw [Port.eq_other_of_ne hq, hother]; exact hs p.other

/-- A valid frame joins the request queue where there is room (R164). -/
theorem queuesKept_handOn {s : State} (p : Port) (f : Frame) (hs : s.queuesKept) : (s.handOn p f).queuesKept := by
  have hsilence := queuesKept_of_only (restartSilence_only s p) (by simp) hs
  obtain ⟨hrequests, hresponses⟩ := hsilence p
  unfold State.handOn
  dsimp only
  split
  · rename_i hroom
    exact queuesKept_putPort ⟨List.length_append.trans_le hroom, hresponses⟩ hsilence
  · exact queuesKept_putPort ⟨hrequests, hresponses⟩ hsilence

theorem queuesKept_takeFramingError {s : State} (p : Port) (hs : s.queuesKept) : (s.takeFramingError p).queuesKept := by
  unfold State.takeFramingError
  split
  · exact hs
  all_goals exact queuesKept_putPort (hs p) hs

theorem queuesKept_takeCharacter {s : State} (p : Port) (c : Byte) (hs : s.queuesKept) :
    (s.takeCharacter p c).queuesKept := by
  have port : ∀ receiver discarded,
      (s.putPort p { s.ports.at p with receiver := receiver, discarded := discarded }).queuesKept :=
    fun _ _ => queuesKept_putPort (hs p) hs
  unfold State.takeCharacter State.takeLength State.takeBody State.takeCheck
  dsimp only
  split
  · split
    · exact port _ _
    · exact hs
  · split <;> exact port _ _
  · exact port _ _
  · exact port _ _
  · split
    · exact queuesKept_handOn p _ (port _ _)
    · exact port _ _

theorem queuesKept_receive {s : State} (p : Port) (c : Byte) (stop : Framing) (hs : s.queuesKept) :
    (s.receive p c stop).queuesKept := by
  have broken := queuesKept_takeFramingError p hs
  unfold State.receive
  split
  · exact hs
  · cases stop with
    | good => exact queuesKept_takeCharacter p c hs
    | error => exact broken
    | brk => exact queuesKept_putPort (broken p) broken

/-- A response that is sent leaves its queue (R168). -/
theorem queuesKept_sendResponse {s : State} (p : Port) (hs : s.queuesKept) : (s.sendResponse p).queuesKept := by
  obtain ⟨hrequests, hresponses⟩ := hs p
  unfold State.sendResponse
  dsimp only
  split
  · rename_i heq
    refine queuesKept_putPort ⟨hrequests, ?_⟩ hs
    rw [heq, List.length_cons] at hresponses
    exact Nat.le_of_succ_le hresponses
  · exact hs
  · exact hs

/-- One response joins a response queue with room (R165). -/
theorem queuesKept_respond {s : State} (p : Port) (kind tag : Byte) (st : Status) (rs : List Byte) (hs : s.queuesKept)
    (hroom : (s.ports.at p).responses.length < 4) : (s.respond p kind tag st rs).queuesKept :=
  queuesKept_putPort ⟨(hs p).1, List.length_append.trans_le hroom⟩ hs

theorem queuesKept_popRequest {s : State} (p : Port) (hs : s.queuesKept) : (s.popRequest p).queuesKept :=
  queuesKept_putPort ⟨(List.tail_sublist _).length_le.trans (hs p).1, (hs p).2⟩ hs

theorem queuesKept_buildNotice {s : State} (p : Port) (hs : s.queuesKept) : (s.buildNotice p).queuesKept := by
  unfold State.buildNotice
  split
  · exact hs
  · split
    · exact queuesKept_putPort (hs p) hs
    · exact hs

/-- After a reset the queues are empty (R170). -/
theorem queuesKept_of_reset {s : State} {rateA rateB : BitRate} (h : s.ports = ⟨LinkPort.reset rateA, LinkPort.reset rateB⟩) :
    s.queuesKept := by
  intro q
  rw [h]
  cases q <;> simp [PerPort.at, LinkPort.reset]

/-- Every part of every command keeps the queues within their depth. -/
theorem queuesKept_closed : Closed State.queuesKept where
  own k p payload _ _ hs _ _ := queuesKept_rule k p payload hs
  pop _ p _ hs := queuesKept_popRequest p hs
  respond _ p kind tag st rs _ hs hroom := queuesKept_respond p kind tag st rs hs hroom
  line s l _ hs := queuesKept_of_only (takeLine_only s l) (by simp [hearBlocks]) hs
  notice _ p _ hs := queuesKept_buildNotice p hs
  retransmit s p _ hs := queuesKept_of_only (expireRetransmit_only s p) (by simp [hearBlocks]) hs
  silence s p _ hs := by
    unfold State.expireSilence
    split
    · exact queuesKept_of_only (lapse_only s p _) (by simp [hearBlocks]) hs
    · exact hs
  retain s p _ hs := by
    unfold State.expireRetain
    split
    · exact queuesKept_of_only (teardown_only s p) (by simp [hearBlocks]) hs
    · exact hs
  grace _ _ _ hs := hs
  verify s o _ hs := queuesKept_of_only (verifyOutput_only s o) (by simp [outputBlocks]) hs
  receive _ p c x _ hs := queuesKept_receive p c x hs
  gap s p _ hs := by
    unfold State.expireGap
    split
    · exact queuesKept_putPort (hs p) hs
    · exact hs
  send _ p _ hs := queuesKept_sendResponse p hs
  ends s p _ hs := by
    unfold State.endFrame
    split
    · exact hs
    · exact queuesKept_putPort (hs p) hs
  idle _ p _ hs := queuesKept_putPort (hs p) hs
  choice _ _ _ hs := hs
  tick _ _ _ hs := hs
  asserted _ _ := queuesKept_of_reset rfl
  sources _ _ _ _ hs := hs
  released s x hs := by
    unfold State.endReset
    split
    · exact hs
    · split
      · exact queuesKept_of_reset rfl
      · exact hs
  queue _ _ hs := hs

/-- Settles O54: each bound is kept by every part of a step. -/
theorem everyStepKeepsTheBounds : Obligations.EveryStepKeepsTheBounds :=
  ⟨poolKept_closed.step, queuesKept_closed.step⟩

end Sys2Proof.Machine
end

section
/-! PROOFS. JOURNAL_STATUS: the report of the journal and the pool, and the loss flag that it clears (spec/03, 3.6). -/

namespace Sys2Proof.Machine

open Sys2Proof

/-- The flag that a request of one byte carries (R175). -/
theorem argFlag_byte {b : Nat} (hb : b < 256) : argFlag [byteOf b] 0 = if b ≤ 1 then some (decide (b = 1)) else none := by
  have h0 : arg8 [byteOf b] 0 = b := byteOf_small hb
  rw [argFlag_eq, h0]

/-- The report of JOURNAL_STATUS field by field (R69, R47, R177). -/
theorem journalStatusResults_eq (p : Port) (s : State) : journalStatusResults p s =
    [byteOf (s.journals.at p).unsent.length, byteOf (s.journals.at p).inflight.length] ++
      leBytes 2 (s.oldestInflight p).toNat ++ leBytes 2 (s.engines.at p).nextSeq.toNat ++
      [byteOf ((s.journals.at p).inflight.length + (s.journals.at p).unsent.length),
        byteOf (128 - ((s.journals.at p).holding - 64) - ((s.journals.at p.other).holding - 64)),
        if (s.sessions.at p).loss then 1 else 0] ++
      maskBytes 2 16 (s.staleMask p) ++ maskBytes 2 16 (s.attentionMask p) := by
  simp only [journalStatusResults, State.maskFields, sharedFree_eq s p, flagByte, Journal.holding, List.append_assoc]

/-- The loss flag is cleared where the request asks for it, and kept where it does not (R69). -/
theorem clearLoss_eq (s : State) (p : Port) (clear : Prop) [Decidable clear] :
    (if decide clear = true then s.putSession p { s.sessions.at p with loss := false } else s) =
      s.putSession p { s.sessions.at p with loss := if clear then false else (s.sessions.at p).loss } := by
  by_cases h : clear
  · simp [h]
  · have kept : s.putSession p (s.sessions.at p) = s := by simp [State.putSession]
    rw [if_neg (by simpa using h), if_neg h]
    exact kept.symm

/-- Settles O30: clear-loss is a flag, and then the report is made and the flag cleared or kept, or it is refused. -/
theorem journalStatusReportsThePool : Obligations.JournalStatusReportsThePool := by
  intro p s f clear hclear h j e oldest
  have answers := fun u st rs => exec_answered (c := .journalStatus p) (u := u) (st := st) (rs := rs) h rfl rfl
  refine ⟨fun hflag => answers _ _ _ ?_, fun hhigh => answers _ _ _ ?_⟩
  · rw [journalStatusOwn, argFlag_byte hclear, if_pos hflag]
    dsimp only
    rw [clearLoss_eq, journalStatusResults_eq]
    rfl
  · rw [journalStatusOwn, argFlag_byte hclear, if_neg (by omega)]
    rfl

end Sys2Proof.Machine
end

section
/-! PROOFS. SET_TIME: the new count, the moved stamps, and the TIME_MARK that each live journal is asked for, in either order
(spec/08, 8.2; R48, R56, R61; log 7). -/

namespace Sys2Proof.Machine

open Sys2Proof

/-! ### What one session keeps -/

/-- What a TIME_MARK can change of a session: its journal, its record and its engine. -/
structure Books where
  journal : Journal
  session : Session
  engine : Engine

/-- The books of a session. -/
def State.books (s : State) (q : Port) : Books :=
  { journal := s.journals.at q, session := s.sessions.at q, engine := s.engines.at q }

/-- A TIME_MARK joins the end of the journal (R56, R58). -/
def Books.marked (old new : Time) (b : Books) : Books :=
  { b with journal := { b.journal with unsent := b.journal.unsent ++ [{ stamp := new, body := .timeMark old new }] } }

/-- A TIME_MARK is lost: the loss flag is set, and its passage from clear to set raises the status-changed mark (R61). -/
def Books.lossNoted (b : Books) : Books :=
  { b with
    session := { b.session with loss := true }
    engine := { b.engine with statusChanged := b.engine.statusChanged || !b.session.loss } }

theorem books_eq_iff (s : State) (q : Port) (b : Books) : s.books q = b ↔
    s.journals.at q = b.journal ∧ s.sessions.at q = b.session ∧ s.engines.at q = b.engine := by
  cases b
  simp [State.books]

/-- A session that holds so many records has room for one more, the other holding so many (R48). -/
def roomBeside (held other : Nat) : Prop := held < 64 ∨ (held < 192 ∧ (held - 64) + (other - 64) < 128)

/-- What SET_TIME made of the books of session q: untouched when it is CLOSED, and otherwise the TIME_MARK admitted where there
was room, and lost where there was none. -/
structure MarkOutcome (old new : Time) (s t : State) (q : Port) (room : Prop) : Prop where
  unasked : ¬ s.live q → t.books q = s.books q
  admitted : s.live q → room → t.books q = (s.books q).marked old new
  lost : s.live q → ¬ room → t.books q = (s.books q).lossNoted

/-! ### One TIME_MARK -/

theorem markTime_only (old new : Time) (s : State) (p : Port) :
    s.changesOnly [.sessions, .journals, .engines] (State.markTime old new s p) := by
  rw [markTime_rest, co_iff]
  simp [Block.same]

/-- A CLOSED session is asked for no TIME_MARK, any other one is (R56). -/
theorem markTime_cases (old new : Time) (s : State) (p : Port) :
    (¬ s.live p → State.markTime old new s p = s) ∧
    (s.live p → State.markTime old new s p = s.admitOrLose p { stamp := new, body := .timeMark old new }) := by
  unfold State.live State.markTime
  cases (s.sessions.at p).state <;> simp

/-- The books of the session that is asked (R48, R61). -/
theorem markTime_outcome (old new : Time) (s : State) (p : Port) : MarkOutcome old new s (State.markTime old new s p) p
    (roomBeside (s.journals.at p).holding (s.journals.at p.other).holding) where
  unasked h := by rw [(markTime_cases old new s p).1 h]
  admitted h hroom := by
    rw [(markTime_cases old new s p).2 h, admitOrLose_eq]
    simp [(room_iff s p).mpr hroom, State.books, Books.marked]
  lost h hroom := by
    rw [(markTime_cases old new s p).2 h, admitOrLose_eq]
    simp [mt (room_iff s p).mp hroom, State.books, Books.lossNoted]

/-- The other session's books stay. -/
theorem markTime_other (old new : Time) (s : State) {p q : Port} (h : q ≠ p) :
    (State.markTime old new s p).books q = s.books q := by
  by_cases hl : s.live p
  · rw [(markTime_cases old new s p).2 hl, admitOrLose_eq]
    by_cases hc : s.canAdmit p = true <;> simp [hc, h, State.books]
  · rw [(markTime_cases old new s p).1 hl]

/-! ### Both, in either order -/

/-- The records that session a holds once it has been asked for its TIME_MARK. -/
def State.heldOnceMarked (s : State) (a : Port) (held : Nat) : Prop :=
  let x := (s.journals.at a).holding
  let room := roomBeside x (s.journals.at a.other).holding
  (s.live a ∧ room ∧ held = x + 1) ∨ (¬ (s.live a ∧ room) ∧ held = x)

/-- The holding of the session that is asked rises by the record admitted. -/
theorem heldOnceMarked_markTime (old new : Time) (s : State) (a : Port) :
    s.heldOnceMarked a ((State.markTime old new s a).journals.at a).holding := by
  have outcome := markTime_outcome old new s a
  have holding_of : ∀ {b : Books}, (State.markTime old new s a).books a = b →
      ((State.markTime old new s a).journals.at a).holding = b.journal.holding := fun h => by rw [← h]; rfl
  by_cases h : s.live a ∧ roomBeside (s.journals.at a).holding (s.journals.at a.other).holding
  · refine Or.inl ⟨h.1, h.2, (holding_of (outcome.admitted h.1 h.2)).trans ?_⟩
    simp [Books.marked, State.books, Journal.holding, Nat.add_assoc]
  · refine Or.inr ⟨h, ?_⟩
    by_cases hl : s.live a
    · exact holding_of (outcome.lost hl fun hroom => h ⟨hl, hroom⟩)
    · exact holding_of (outcome.unasked hl)

/-- The session asked first finds the pool as it was; the other one finds it with the first one's record (R48, R59). -/
theorem markTime_both (old new : Time) (s : State) (a : Port) :
    let t := State.markTime old new (State.markTime old new s a) a.other
    ∃ held, s.heldOnceMarked a held ∧
      MarkOutcome old new s t a (roomBeside (s.journals.at a).holding (s.journals.at a.other).holding) ∧
      MarkOutcome old new s t a.other (roomBeside (s.journals.at a.other).holding held) := by
  intro t
  have first := markTime_outcome old new s a
  have held := heldOnceMarked_markTime old new s a
  have waits := markTime_other old new s (Port.other_ne a)
  have second := markTime_outcome old new (State.markTime old new s a) a.other
  have stays : t.books a = (State.markTime old new s a).books a := markTime_other old new _ (Port.ne_other a)
  obtain ⟨hjournal, hsession, -⟩ := (books_eq_iff _ _ _).mp waits
  have hlive : (State.markTime old new s a).live a.other ↔ s.live a.other := by rw [State.live, hsession]; rfl
  rw [hjournal, Port.other_other] at second
  refine ⟨_, held, ⟨?_, ?_, ?_⟩, ⟨?_, ?_, ?_⟩⟩
  · rw [stays]; exact first.unasked
  · rw [stays]; exact first.admitted
  · rw [stays]; exact first.lost
  · rw [← waits, ← hlive]; exact second.unasked
  · rw [← waits, ← hlive]; exact second.admitted
  · rw [← waits, ← hlive]; exact second.lost

/-- The state of SET_TIME before the TIME_MARKs: the count is written and the stamps are moved (R146). -/
def State.timeMoved (s : State) (new : Time) : State :=
  ({ s with time := new, choice := s.choice + 1 } : State).updateLines fun _ r => r.shiftStamp (new - s.time)

theorem setTime_eq (s : State) (new : Time) :
    s.setTime new = (arrange s.choice [Port.A, Port.B]).foldl (State.markTime s.time new) (s.timeMoved new) := rfl

/-- One of the two sessions is asked first, and which is free (log 7). -/
theorem setTime_order (s : State) (new : Time) : ∃ a : Port,
    s.setTime new = State.markTime s.time new (State.markTime s.time new (s.timeMoved new) a) a.other := by
  rw [setTime_eq]
  rcases arrange_two s.choice Port.A Port.B with h | h <;> rw [h]
  · exact ⟨.A, rfl⟩
  · exact ⟨.B, rfl⟩

/-- What SET_TIME makes of the books of both sessions. -/
theorem setTime_outcomes (s : State) (new : Time) : ∃ (a : Port) (held : Nat), s.heldOnceMarked a held ∧
    MarkOutcome s.time new s (s.setTime new) a (roomBeside (s.journals.at a).holding (s.journals.at a.other).holding) ∧
    MarkOutcome s.time new s (s.setTime new) a.other (roomBeside (s.journals.at a.other).holding held) := by
  obtain ⟨a, ha⟩ := setTime_order s new
  obtain ⟨held, hheld, first, second⟩ := markTime_both s.time new (s.timeMoved new) a
  rw [← ha] at first second
  exact ⟨a, held, hheld, ⟨first.unasked, first.admitted, first.lost⟩, ⟨second.unasked, second.admitted, second.lost⟩⟩

/-! ### Who gets the shared slots -/

/-- The session is live and can take one more record only in a shared slot (R47, R48). -/
def State.needsShared (s : State) (q : Port) : Prop :=
  s.live q ∧ 64 ≤ (s.journals.at q).holding ∧ (s.journals.at q).holding < 192

/-- The TIME_MARK adds at most one record. -/
theorem heldOnceMarked_bounds {s : State} {a : Port} {held : Nat} (h : s.heldOnceMarked a held) :
    (s.journals.at a).holding ≤ held ∧ held ≤ (s.journals.at a).holding + 1 := by
  rcases h with ⟨-, -, h⟩ | ⟨-, h⟩ <;> omega

/-- A session that needs no shared slot takes none (R47, R48). -/
theorem heldOnceMarked_unshared {s : State} {a : Port} {held : Nat} (h : s.heldOnceMarked a held) (hn : ¬ s.needsShared a) :
    held - 64 = (s.journals.at a).holding - 64 := by
  rcases h with ⟨hl, hroom, h⟩ | ⟨-, h⟩
  · have reserve : ¬ (64 ≤ (s.journals.at a).holding ∧ (s.journals.at a).holding < 192) := fun hx => hn ⟨hl, hx⟩
    unfold roomBeside at hroom
    omega
  · rw [h]

/-- The outcome in one journal: where the order of the two does not count, its room is known (R48, R61). -/
theorem setTime_outcome (s : State) (new : Time) (q : Port) : ∃ room : Prop,
    MarkOutcome s.time new s (s.setTime new) q room ∧
      ((s.journals.at q).holding < 64 → room) ∧
      ((s.journals.at q).holding < 192 → 2 ≤ s.sharedFree → room) ∧
      (s.needsShared q → ¬ s.needsShared q.other → 1 ≤ s.sharedFree → room) ∧
      (192 ≤ (s.journals.at q).holding ∨ (64 ≤ (s.journals.at q).holding ∧ s.sharedFree = 0) → ¬ room) := by
  obtain ⟨a, held, hheld, first, second⟩ := setTime_outcomes s new
  by_cases hq : q = a
  · subst hq
    refine ⟨_, first, ?_⟩
    rw [sharedFree_eq s q]
    simp only [State.needsShared, roomBeside]
    omega
  · obtain rfl := Port.eq_other_of_ne hq
    refine ⟨_, second, ?_⟩
    rw [sharedFree_eq s a, Port.other_other]
    have bounds := heldOnceMarked_bounds hheld
    have unshared := heldOnceMarked_unshared hheld
    unfold roomBeside
    refine ⟨by omega, by omega, fun hneeds hfirst hfree => ?_, by omega⟩
    have := unshared hfirst
    have := hneeds.2.2
    omega

/-- One shared slot free for two that need it: the first takes it, and the other's TIME_MARK is lost (R48, R59; log 7). -/
theorem setTime_last_slot (s : State) (new : Time) (hneeds : ∀ q, s.needsShared q) (hfree : s.sharedFree = 1) : ∃ a : Port,
    (s.setTime new).books a = (s.books a).marked s.time new ∧
      (s.setTime new).books a.other = (s.books a.other).lossNoted := by
  obtain ⟨a, held, hheld, first, second⟩ := setTime_outcomes s new
  obtain ⟨hlive, hreserve, hcap⟩ := hneeds a
  obtain ⟨hlive', hreserve', hcap'⟩ := hneeds a.other
  rw [sharedFree_eq s a] at hfree
  have hroom : roomBeside (s.journals.at a).holding (s.journals.at a.other).holding := by
    unfold roomBeside
    omega
  refine ⟨a, first.admitted hlive hroom, second.lost hlive' ?_⟩
  rcases hheld with ⟨-, -, hheld⟩ | ⟨hno, -⟩
  · unfold roomBeside
    omega
  · exact absurd ⟨hlive, hroom⟩ hno

/-! ### The count, the stamps and the answer -/

/-- The TIME_MARKs change sessions, journals and engines alone. -/
theorem timeMoved_only (s : State) (new : Time) :
    (s.timeMoved new).changesOnly [.sessions, .journals, .engines] (s.setTime new) :=
  foldl_only _ _ (markTime_only s.time new) _ _

/-- The stamp of a pending edge moves by the step (R146). -/
theorem shiftStamp_eq (step : Time) (r : LineRec) : r.shiftStamp step = match r.state with
    | .pending d stamp expiry => { r with state := .pending d (stamp + step) expiry }
    | .disabled _ | .init _ | .stable _ | .chatter _ _ => r := by
  unfold LineRec.shiftStamp
  cases r.state <;> rfl

/-- A SET_TIME does not hang on the ports. -/
theorem setTime_withPorts (s : State) (ps : PerPort LinkPort) (new : Time) :
    (s.withPorts ps).setTime new = (s.setTime new).withPorts ps := by
  refine foldl_ports (State.markTime s.time new) ps (fun u q => ?_) _ (s.timeMoved new)
  by_cases hl : u.live q
  · rw [(markTime_cases _ _ u q).2 hl, (markTime_cases _ _ (u.withPorts ps) q).2 hl, admitOrLose_ports]
  · rw [(markTime_cases _ _ u q).1 hl, (markTime_cases _ _ (u.withPorts ps) q).1 hl]

/-- The time of a SET_TIME reads back (R175). -/
theorem setTimeArg (new : Time) : BitVec.ofNat 32 (argLe (leBytes 4 new.toNat) 0 4) = new := by
  have h : argLe (leBytes 4 new.toNat) 0 4 = new.toNat % 256 ^ 4 := by
    simpa only [List.nil_append, List.append_nil, List.length_nil] using argLe_append [] [] 4 new.toNat
  rw [h, Nat.mod_eq_of_lt (show new.toNat < 256 ^ 4 from new.isLt), BitVec.ofNat_toNat, BitVec.setWidth_eq]

/-- SET_TIME is answered with the old time (R146, R177). -/
theorem setTime_answered {p : Port} {s : State} {f : Frame} {new : Time} (h : s.serves p .setTime (leBytes 4 new.toNat) f) :
    exec (.setTime p) s = .next ((s.setTime new).answered p f .ok (leBytes 4 s.time.toNat)) := by
  have hports : (s.setTime new).ports = s.ports := setTime_rest s new .ports (by simp)
  have hpop : (s.popRequest p).setTime new = (s.setTime new).popRequest p := by
    simp only [State.popRequest, State.putPort, hports]
    exact setTime_withPorts s (s.ports.put p { s.ports.at p with requests := (s.ports.at p).requests.tail }) new
  refine exec_answered h (leBytes_length ..) rfl ?_
  simp only [setTimeOwn, accept, setTimeArg, hpop, popRequest_time]

/-- An answer changes the ports alone. -/
theorem answered_only (s : State) (p : Port) (f : Frame) (st : Status) (rs : List Byte) :
    s.changesOnly [.ports] (s.answered p f st rs) := by
  rw [co_iff]
  simp [State.answered, State.answeredAs, Block.same]

/-- Settles O14: the count and the stamps, then the journal of each session by its room, then the race for the last slot. -/
theorem setTimeMovesTheCount : Obligations.SetTimeMovesTheCount := by
  intro p s f new h
  have marks := timeMoved_only s new
  obtain ⟨htime, hnow⟩ := marks .clock (by simp)
  have hlines : (s.setTime new).lines = (s.timeMoved new).lines := marks .lines (by simp)
  have hports : (s.setTime new).ports = s.ports := marks .ports (by simp)
  refine ⟨_, setTime_answered h, htime, hnow, ?_, ?_, ?_, ?_⟩
  · exact hlines.trans (congrArg (fun g => s.lines.update fun _ => g) (funext fun r => shiftStamp_eq (new - s.time) r))
  · simp only [State.answered, State.answeredAs, hports]
  · exact changesOnly_trans (changesOnly_mono (setTime_rest s new) (by simp))
      (changesOnly_mono (answered_only (s.setTime new) p f .ok _) (by simp))
  · intro admitted lost needsShared
    have hadmitted : ∀ q, (s.setTime new).books q = (s.books q).marked s.time new → admitted q :=
      fun q => (books_eq_iff _ _ _).mp
    have hlost : ∀ q, (s.setTime new).books q = (s.books q).lossNoted → lost q := fun q => (books_eq_iff _ _ _).mp
    refine ⟨fun q => ?_, fun hA hB hfree => ?_⟩
    · obtain ⟨room, outcome, hreserve, htwo, hone, hnone⟩ := setTime_outcome s new q
      have asked : s.live q → (admitted q ∨ lost q) ∧ ((s.journals.at q).holding < 64 → admitted q) ∧
          ((s.journals.at q).holding < 192 → 2 ≤ s.sharedFree → admitted q) ∧
          (needsShared q → ¬ needsShared q.other → 1 ≤ s.sharedFree → admitted q) ∧
          (192 ≤ (s.journals.at q).holding ∨ (64 ≤ (s.journals.at q).holding ∧ s.sharedFree = 0) → lost q) := by
        intro hl
        have joins : room → admitted q := fun hroom => hadmitted q (outcome.admitted hl hroom)
        have misses : ¬ room → lost q := fun hroom => hlost q (outcome.lost hl hroom)
        exact ⟨(Classical.em room).imp joins misses, fun h => joins (hreserve h), fun h h' => joins (htwo h h'),
          fun h h' h'' => joins (hone h h' h''), fun h => misses (hnone h)⟩
      dsimp only
      rcases hst : (s.sessions.at q).state with _ | _ | _
      · exact (books_eq_iff _ _ _).mp (outcome.unasked (by simp [State.live, hst]))
      · exact asked (by simp [State.live, hst])
      · exact asked (by simp [State.live, hst])
    · obtain ⟨a, hfirst, hsecond⟩ := setTime_last_slot s new (fun | .A => hA | .B => hB) hfree
      cases a with
      | A => exact Or.inl ⟨hadmitted .A hfirst, hlost .B hsecond⟩
      | B => exact Or.inr ⟨hadmitted .B hfirst, hlost .A hsecond⟩

end Sys2Proof.Machine
end

section
/-! PROOFS. The numbering of the INFLIGHT records: what each operation makes of it, and that every part of a step keeps it
(spec/04, 4.1 to 4.4; R74, R75, R84, R96). -/

namespace Sys2Proof.Machine

open Sys2Proof

/-! ### Runs of consecutive numbers -/

/-- The k numbers that lie before a next number, in order (R74). -/
def numbersBefore (next : Sys2Proof.Seq) (k : Nat) : List Sys2Proof.Seq :=
  (List.range k).map fun i => next - BitVec.ofNat 16 (k - i)

@[simp] theorem numbersBefore_length (next : Sys2Proof.Seq) (k : Nat) : (numbersBefore next k).length = k := by
  simp [numbersBefore]

/-- The run without its oldest d numbers is the shorter run before the same number. -/
theorem numbersBefore_drop (next : Sys2Proof.Seq) (k d : Nat) :
    (numbersBefore next k).drop d = numbersBefore next (k - d) := by
  refine List.ext_getElem (by simp) fun i hi _ => ?_
  rw [List.length_drop, numbersBefore_length] at hi
  simp only [numbersBefore, List.getElem_drop, List.getElem_map, List.getElem_range, Nat.sub_sub]

/-- The numbers given from the next number upward continue the run (R74). -/
theorem numbersBefore_append (next : Sys2Proof.Seq) (k m : Nat) :
    numbersBefore next k ++ (List.range m).map (fun i => next + BitVec.ofNat 16 i) =
      numbersBefore (next + BitVec.ofNat 16 m) (k + m) := by
  refine List.ext_getElem (by simp) fun i _ hi => ?_
  rw [numbersBefore_length] at hi
  simp only [numbersBefore, List.getElem_append, List.length_map, List.length_range, List.getElem_map, List.getElem_range]
  split
  · rename_i h
    have hsum : k + m - i = k - i + m := by omega
    rw [hsum, BitVec.ofNat_add, add_sub_add_right_eq_sub]
  · rename_i h
    have hsum : i - k + (k + m - i) = m := by omega
    rw [eq_sub_iff_add_eq, BitVec.add_assoc, ← BitVec.ofNat_add, hsum]

/-! ### The numbering of one session -/

/-- What the numbering of a session hangs on: the numbers of its INFLIGHT records, the next number, the go-back mark and the
window. -/
structure Numbering where
  seqs : List Sys2Proof.Seq
  next : Sys2Proof.Seq
  mark : Option Sys2Proof.Seq
  window : Nat

/-- The numbering of a session. -/
def State.numbering (s : State) (q : Port) : Numbering :=
  { seqs := (s.journals.at q).inflight.map Sent.seq
    next := (s.engines.at q).nextSeq
    mark := (s.engines.at q).goBack
    window := (s.sessions.at q).state.window }

/-- The numbers are consecutive through L and within the window, the window is one that OPEN may give, and the mark names one of
them (R74, R75, R84, R96). -/
structure Numbering.Sound (n : Numbering) : Prop where
  run : n.seqs = numbersBefore n.next n.seqs.length
  fits : n.seqs.length ≤ n.window
  bound : n.window ≤ 32
  marked : ∀ r, n.mark = some r → r ∈ n.seqs

theorem numbered_iff (s : State) : s.numbered ↔ ∀ q, (s.numbering q).Sound := by
  have run : ∀ q, (s.numbering q).seqs.length = (s.journals.at q).inflight.length := fun q => List.length_map _
  constructor
  · intro h q
    obtain ⟨hrun, hfits, hbound, hmark⟩ := h q
    exact ⟨by rw [run]; exact hrun, by rw [run]; exact hfits, hbound, hmark⟩
  · intro h q
    obtain ⟨hrun, hfits, hbound, hmark⟩ := h q
    rw [run] at hrun hfits
    exact ⟨hrun, hfits, hbound, hmark⟩

/-- The mark at the oldest number, or none where there is none (R84, R100). -/
theorem Numbering.Sound.markOldest {n : Numbering} (h : n.Sound) : { n with mark := n.seqs.head? }.Sound where
  run := h.run
  fits := h.fits
  bound := h.bound
  marked _ hr := List.mem_of_head? hr

/-- No number at all, under a window that OPEN may give. -/
theorem Numbering.Sound.none (next : Sys2Proof.Seq) {window : Nat} (h : window ≤ 32) :
    Numbering.Sound { seqs := [], next := next, mark := .none, window := window } where
  run := rfl
  fits := Nat.zero_le _
  bound := h
  marked _ hr := nomatch hr

/-- The oldest numbers go, and the mark is on one of those left (R84, R87). -/
theorem Numbering.Sound.drop {n : Numbering} (h : n.Sound) (d : Nat) {mark : Option Sys2Proof.Seq}
    (hmark : ∀ r, mark = some r → r ∈ n.seqs.drop d) : { n with seqs := n.seqs.drop d, mark := mark }.Sound where
  run := by
    rw [List.length_drop, ← numbersBefore_drop, ← h.run]
  fits := List.length_drop.trans_le ((Nat.sub_le ..).trans h.fits)
  bound := h.bound
  marked := hmark

/-- New numbers follow as far as the window lets them (R74, R75). -/
theorem Numbering.Sound.extend {n : Numbering} (h : n.Sound) {m : Nat} (hm : m ≤ n.window - n.seqs.length)
    {mark : Option Sys2Proof.Seq} (hmark : ∀ r, mark = some r → r ∈ n.seqs) :
    Numbering.Sound { n with
      seqs := n.seqs ++ (List.range m).map fun i => n.next + BitVec.ofNat 16 i
      next := n.next + BitVec.ofNat 16 m
      mark := mark } where
  run := by
    have hlen : (n.seqs ++ (List.range m).map fun i => n.next + BitVec.ofNat 16 i).length = n.seqs.length + m := by simp
    rw [hlen, ← numbersBefore_append, ← h.run]
  fits := by
    have := h.fits
    simp only [List.length_append, List.length_map, List.length_range]
    omega
  bound := h.bound
  marked r hr := List.mem_append_left _ (hmark r hr)

/-! ### What the operations on the state make of a numbering -/

@[simp] theorem numbering_putEngine_same (s : State) (p : Port) (e : Engine) :
    (s.putEngine p e).numbering p = { s.numbering p with next := e.nextSeq, mark := e.goBack } := by
  simp [State.numbering]

@[simp] theorem numbering_putEngine_ne (s : State) {p q : Port} (e : Engine) (h : q ≠ p) :
    (s.putEngine p e).numbering q = s.numbering q := by
  simp [State.numbering, h]

@[simp] theorem numbering_putJournal_same (s : State) (p : Port) (j : Journal) :
    (s.putJournal p j).numbering p = { s.numbering p with seqs := j.inflight.map Sent.seq } := by
  simp [State.numbering]

@[simp] theorem numbering_putJournal_ne (s : State) {p q : Port} (j : Journal) (h : q ≠ p) :
    (s.putJournal p j).numbering q = s.numbering q := by
  simp [State.numbering, h]

@[simp] theorem numbering_putSession_same (s : State) (p : Port) (r : Session) :
    (s.putSession p r).numbering p = { s.numbering p with window := r.state.window } := by
  simp [State.numbering]

@[simp] theorem numbering_putSession_ne (s : State) {p q : Port} (r : Session) (h : q ≠ p) :
    (s.putSession p r).numbering q = s.numbering q := by
  simp [State.numbering, h]

@[simp] theorem numbering_putPort (s : State) (p q : Port) (r : LinkPort) :
    (s.putPort p r).numbering q = s.numbering q := rfl

@[simp] theorem numbering_updateSets (s : State) (f : SetId → Option WatchSet → Option WatchSet) (q : Port) :
    (s.updateSets f).numbering q = s.numbering q := rfl

@[simp] theorem numbering_updateOutputs (s : State) (f : OutId → Output → Output) (q : Port) :
    (s.updateOutputs f).numbering q = s.numbering q := rfl

/-- Records that are folded change sets alone (R88). -/
@[simp] theorem numbering_foldRecords (s : State) (p q : Port) (rs : List Rec) :
    (rs.foldl (State.foldRecord p) s).numbering q = s.numbering q := by
  rw [foldl_foldRecord]
  rfl

/-- One session's numbering is sound again, and the other's is as it was. -/
theorem numbered_of_one {s t : State} (p : Port) (hp : (t.numbering p).Sound)
    (ho : ∀ q, q ≠ p → t.numbering q = s.numbering q) (hs : s.numbered) : t.numbered := by
  rw [numbered_iff] at hs ⊢
  intro q
  by_cases hq : q = p
  · subst hq; exact hp
  · rw [ho q hq]; exact hs q

/-- One session's numbering is what it was, and so is the other's. -/
theorem numbered_of_same {s t : State} (p : Port) (hp : t.numbering p = s.numbering p)
    (ho : ∀ q, q ≠ p → t.numbering q = s.numbering q) (hs : s.numbered) : t.numbered :=
  numbered_of_one p (hp ▸ (numbered_iff s).mp hs p) ho hs

/-- The numbering hangs on sessions, journals and engines alone. -/
theorem numbered_of_only {s t : State} {bs : List Block} (h : s.changesOnly bs t)
    (hb : Block.sessions ∉ bs ∧ Block.journals ∉ bs ∧ Block.engines ∉ bs) (hs : s.numbered) : t.numbered := by
  obtain ⟨hsessions, hjournals, hengines⟩ := hb
  have esessions : t.sessions = s.sessions := h .sessions hsessions
  have ejournals : t.journals = s.journals := h .journals hjournals
  have eengines : t.engines = s.engines := h .engines hengines
  unfold State.numbered
  rwa [esessions, ejournals, eengines]

/-- An engine with the same next number and mark. -/
theorem numbered_putEngine {s : State} {p : Port} {e : Engine} (hnext : e.nextSeq = (s.engines.at p).nextSeq)
    (hmark : e.goBack = (s.engines.at p).goBack) (hs : s.numbered) : (s.putEngine p e).numbered :=
  numbered_of_same p (by rw [numbering_putEngine_same, hnext, hmark]; rfl) (fun _ hq => numbering_putEngine_ne s e hq) hs

/-- A journal whose INFLIGHT records have the same numbers. -/
theorem numbered_putJournal {s : State} {p : Port} {j : Journal}
    (h : j.inflight.map Sent.seq = (s.journals.at p).inflight.map Sent.seq) (hs : s.numbered) :
    (s.putJournal p j).numbered :=
  numbered_of_same p (by rw [numbering_putJournal_same, h]; rfl) (fun _ hq => numbering_putJournal_ne s j hq) hs

/-- A session record with the same window. -/
theorem numbered_putSession {s : State} {p : Port} {r : Session} (h : r.state.window = (s.sessions.at p).state.window)
    (hs : s.numbered) : (s.putSession p r).numbered :=
  numbered_of_same p (by rw [numbering_putSession_same, h]; rfl) (fun _ hq => numbering_putSession_ne s r hq) hs

/-- The status-changed mark is no part of a numbering (R80). -/
theorem numbered_raiseStatus {s : State} (p : Port) (hs : s.numbered) : (s.raiseStatus p).numbered :=
  numbered_putEngine (s := s) rfl rfl hs

theorem numbered_noteLoss {s : State} (p : Port) (hs : s.numbered) : (s.noteLoss p).numbered := by
  unfold State.noteLoss
  split
  · exact hs
  · exact numbered_raiseStatus p (numbered_putSession (s := s) rfl hs)

/-- UNSENT records have no numbers (R50). -/
theorem numbered_append {s : State} (p : Port) (r : Rec) (hs : s.numbered) : (s.append p r).numbered :=
  numbered_putJournal (s := s) rfl hs

/-- What sets and outputs do with news keeps the numbering. -/
theorem numbered_hearClosed : HearClosed State.numbered where
  append _ p r _ hs := numbered_append p r hs
  overrun s w _ _ hs := numbered_raiseStatus (s := s.putSet w _) _ hs
  loss _ p hs := numbered_noteLoss p hs
  absorb s _ _ _ hs := numbered_putJournal (s := s) rfl hs
  attend s w _ _ hs := numbered_raiseStatus (s := s.putSet w _) _ hs
  output _ _ _ _ hs := hs
  line _ _ _ hs := hs
  choice _ _ hs := hs

/-! ### Records voided, acknowledged and sent -/

/-- A VOID record keeps its number (R57). -/
theorem numbered_voidSet {s : State} (p : Port) (w : SetId) (hs : s.numbered) : (s.voidSet p w).numbered := by
  refine numbered_putJournal ?_ hs
  simp only [Journal.voidInflightOf, Journal.dropUnsentOf, List.map_map]
  refine List.map_congr_left fun x _ => ?_
  dsimp only [Function.comp]
  split <;> rfl

/-- After an ACK the mark is on a record that is left (R84). -/
theorem goBackAfterAck_mem {removed left : List Sent} {mark : Option Sys2Proof.Seq}
    (hmark : ∀ r, mark = some r → r ∈ (removed ++ left).map Sent.seq) {r : Sys2Proof.Seq}
    (h : goBackAfterAck removed left mark = some r) : r ∈ left.map Sent.seq := by
  cases mark with
  | none => simp [goBackAfterAck] at h
  | some m =>
    rw [goBackAfterAck] at h
    split at h
    · exact List.mem_of_head? (by rwa [List.head?_map])
    · rename_i hgone
      split at h
      · contradiction
      · obtain rfl := Option.some.inj h
        have hm := hmark m rfl
        rw [List.map_append, List.mem_append] at hm
        exact hm.resolve_left hgone

/-- An ACK removes the oldest numbers, and the mark is on one of those left (R84, R87). -/
theorem numbered_acknowledge {s : State} (p : Port) (d : Nat) (hs : s.numbered) : (s.acknowledge p d).numbered := by
  unfold State.acknowledge
  dsimp only
  split
  · exact hs
  · have hsound := (numbered_iff s).mp hs p
    refine numbered_of_one p ?_ (fun q hq => by simp [hq]) hs
    rw [numbering_putEngine_same, numbering_putJournal_same, numbering_foldRecords, List.map_drop]
    refine hsound.drop _ fun r hr => ?_
    rw [State.numbering, ← List.map_drop]
    exact goBackAfterAck_mem (fun m hm => by rw [List.take_append_drop]; exact hsound.marked m hm) hr

/-- A notice marks a record that it leaves to be sent again, or none (R77). -/
theorem chooseRecords_mark {window : Nat} {e : Engine} {j : Journal} {r : Sys2Proof.Seq}
    (h : (chooseRecords window e j).mark = some r) : r ∈ j.inflight.map Sent.seq := by
  obtain ⟨x, hx, rfl⟩ := Option.map_eq_some_iff.mp h
  exact List.mem_map_of_mem ((resendRun_suffix ..).subset (List.mem_of_mem_drop (List.mem_of_head? hx)))

/-- A notice sends no more new records than the window has places (R75). -/
theorem chooseRecords_fresh_length (window : Nat) (e : Engine) (j : Journal) :
    (chooseRecords window e j).fresh.length ≤ window - j.inflight.length := by
  simp only [chooseRecords]
  split
  · exact List.length_take_le ..
  · exact Nat.zero_le _

/-- A notice numbers its new records from the next number upward, within the window (R74, R75, R77). -/
theorem numbered_sendNotice {s : State} {p : Port} {prm : Params} {silence : Nat}
    (ho : (s.sessions.at p).state = .opened prm silence) (hs : s.numbered) : (s.sendNotice p prm.window).numbered := by
  have hwindow : (s.numbering p).window = prm.window := by rw [State.numbering, ho]; rfl
  have hlength : (s.numbering p).seqs.length = (s.journals.at p).inflight.length := List.length_map _
  refine numbered_of_one p ?_ (fun q hq => by simp [State.sendNotice, hq]) hs
  rw [State.sendNotice, numbering_putEngine_same, numbering_putJournal_same, Journal.sendFresh, List.map_append, number_seq]
  refine ((numbered_iff s).mp hs p).extend ?_ fun r hr => chooseRecords_mark (window := prm.window) hr
  rw [hwindow, hlength]
  exact chooseRecords_fresh_length ..

/-- The parameters of an OPEN session, and of no other. -/
theorem openParams?_opened {s : State} {p : Port} {prm : Params} (h : s.openParams? p = some prm) :
    ∃ silence, (s.sessions.at p).state = .opened prm silence := by
  unfold State.openParams? at h
  split at h
  · contradiction
  · rename_i hst; obtain rfl := Option.some.inj h; exact ⟨_, hst⟩
  · contradiction

theorem numbered_buildNotice {s : State} (p : Port) (hs : s.numbered) : (s.buildNotice p).numbered := by
  unfold State.buildNotice
  split
  · exact hs
  · rename_i hprm
    obtain ⟨_, ho⟩ := openParams?_opened hprm
    split
    · exact numbered_sendNotice ho hs
    · exact hs

/-! ### Sessions opening, lapsing and closing -/

/-- A CLOSED session has no INFLIGHT record (R107). -/
theorem numbered_teardown {s : State} (p : Port) (hs : s.numbered) : (s.teardown p).numbered := by
  refine numbered_of_one p ?_ (fun q hq => by simp [State.teardown, hq]) hs
  rw [State.teardown, numbering_putEngine_same, numbering_putSession_same, numbering_putJournal_same]
  exact .none _ (Nat.zero_le 32)

/-- A fresh session has no INFLIGHT record, and a window in the range of R96 (R98). -/
theorem numbered_freshOpen {s : State} (p : Port) {prm : Params} (hw : prm.window ≤ 32) (hs : s.numbered) :
    (s.freshOpen p prm).numbered := by
  refine numbered_of_one p ?_ (fun q hq => by simp [State.freshOpen, hq]) hs
  rw [State.freshOpen, numbering_putEngine_same, numbering_putJournal_same, numbering_putSession_same]
  exact .none _ hw

/-- The go-back mark is set at the oldest INFLIGHT record (R84, R100). -/
theorem numbered_goBack {s : State} {p : Port} {e : Engine} (hnext : e.nextSeq = (s.engines.at p).nextSeq)
    (hmark : e.goBack = (s.journals.at p).inflight.head?.map Sent.seq) (hs : s.numbered) : (s.putEngine p e).numbered := by
  refine numbered_of_one p ?_ (fun _ hq => numbering_putEngine_ne s e hq) hs
  rw [numbering_putEngine_same, hnext, hmark, ← List.head?_map]
  exact ((numbered_iff s).mp hs p).markOldest

/-- A resume keeps the old window (R73, R99). -/
theorem numbered_resume {s : State} {p : Port} {old : Params} (new : Params) {why : LapseReason} {retain : Nat}
    (hl : (s.sessions.at p).state = .lapsed old why retain) (hs : s.numbered) : (s.resume p old new).numbered :=
  numbered_goBack (s := s.putSession p _) rfl rfl (numbered_putSession (by rw [hl]; rfl) hs)

/-- A lapse keeps the window, or is a teardown (R73, R105, R106). -/
theorem numbered_lapse {s : State} (p : Port) (why : LapseReason) (hs : s.numbered) : (s.lapse p why).numbered := by
  unfold State.lapse
  split
  · exact hs
  · exact hs
  · rename_i ho
    split
    · exact numbered_teardown p hs
    · exact numbered_putEngine (s := s.putSession p _) rfl rfl (numbered_putSession (by rw [ho]; rfl) hs)

theorem numbered_expireRetransmit {s : State} (p : Port) (hs : s.numbered) : (s.expireRetransmit p).numbered := by
  unfold State.expireRetransmit
  dsimp only
  split
  · have counted : (s.putEngine p
        { s.engines.at p with retryCount := (s.engines.at p).retryCount + 1, retransmit := none }).numbered :=
      numbered_putEngine rfl rfl hs
    split
    · exact counted
    · split
      · exact numbered_lapse p .retry counted
      · exact numbered_goBack rfl rfl counted
  · exact hs

/-! ### The requests -/

/-- The window of an OPEN in range (R96). -/
theorem openParams_window {payload : List Byte} {prm : Params} (h : openParams payload = some prm) : prm.window ≤ 32 := by
  unfold openParams at h
  dsimp only at h
  split at h
  · rename_i hrange
    obtain ⟨-, -, -, -, hwindow, -⟩ := hrange
    obtain rfl := Option.some.inj h
    exact hwindow
  · contradiction

theorem numbered_openOwn {s : State} (p : Port) (payload : List Byte) (hs : s.numbered) :
    (openOwn p payload s).state.numbered := by
  unfold openOwn
  split
  · rename_i hprm _
    have again := numbered_freshOpen p (openParams_window hprm) (numbered_teardown p hs)
    split
    · exact numbered_freshOpen p (openParams_window hprm) hs
    · split
      · exact again
      · exact hs
    · rename_i hl
      split
      · exact numbered_resume _ hl hs
      · exact again
  · exact hs
  · exact hs

theorem numbered_configLineOwn {s : State} (p : Port) (payload : List Byte) (hs : s.numbered) :
    (configLineOwn p payload s).state.numbered := by
  unfold configLineOwn
  dsimp only
  split
  · exact hs
  · split
    · exact hs
    · split
      · exact hs
      · exact numbered_hearClosed.reconf (s.updateLines _) _ hs

theorem numbered_resyncRecords {s : State} (p : Port) (w : SetId) (ws : WatchSet) (hs : s.numbered) :
    (s.resyncRecords p w ws).state.numbered := by
  have hcleared : (s.putJournal p ((s.journals.at p).dropUnsentOf w)).numbered := numbered_putJournal rfl hs
  unfold State.resyncRecords State.tryAdmit
  dsimp only
  by_cases hc : (s.putJournal p ((s.journals.at p).dropUnsentOf w)).canAdmit p = true
  · rw [if_pos hc]; exact numbered_append p (s.resyncMark w ws) hcleared
  · rw [if_neg hc]; exact hs

theorem numbered_resyncSetOwn {s : State} (p : Port) (payload : List Byte) (hs : s.numbered) :
    (resyncSetOwn p payload s).state.numbered := by
  refine keeps_ownSet hs fun w ws _ _ => ?_
  split
  · split
    · exact numbered_resyncRecords p w ws hs
    · exact numbered_resyncRecords p w ws hs
    · exact hs
  · exact hs

theorem numbered_disarmSetOwn {s : State} (p : Port) (payload : List Byte) (hs : s.numbered) :
    (disarmSetOwn p payload s).state.numbered := by
  refine keeps_ownSet hs fun w ws _ _ => ?_
  split
  · exact numbered_voidSet p w hs
  · exact hs

/-- An adoption voids records of the loser, and notes the set among its lost ones (R113 to R116). -/
theorem numbered_adopt {s : State} (p : Port) (w : SetId) (ws : WatchSet) (hs : s.numbered) : (s.adopt p w ws).numbered :=
  numbered_raiseStatus p
    (numbered_putSession (s := (s.voidSet p.other w).putSet w _) rfl (numbered_voidSet p.other w hs))

theorem numbered_adoptSetOwn {s : State} (p : Port) (payload : List Byte) (hs : s.numbered) :
    (adoptSetOwn p payload s).state.numbered := by
  unfold adoptSetOwn
  split
  · exact hs
  · split
    · exact hs
    · split
      · exact hs
      · split
        · exact numbered_adopt p _ _ hs
        · exact hs

theorem numbered_ackOwn {s : State} (p : Port) (payload : List Byte) (hs : s.numbered) :
    (ackOwn p payload s).state.numbered := by
  unfold ackOwn
  dsimp only
  split
  · exact hs
  · exact numbered_acknowledge p _ hs

theorem numbered_journalStatusOwn {s : State} (p : Port) (payload : List Byte) (hs : s.numbered) :
    (journalStatusOwn p payload s).state.numbered := by
  unfold journalStatusOwn
  split
  · exact hs
  · dsimp only [accept]
    split
    · exact numbered_putSession rfl hs
    · exact hs

theorem numbered_claimOutputOwn {s : State} (p : Port) (payload : List Byte) (hs : s.numbered) :
    (claimOutputOwn p payload s).state.numbered := by
  unfold claimOutputOwn
  dsimp only
  split
  · exact hs
  · split
    · exact hs
    · split
      · exact hs
      · exact numbered_putSession (s := s.updateOutputs _) rfl hs

/-- Every request's own rule keeps the numbering; most write no session, journal or engine. -/
theorem numbered_rule (k : ReqKind) {s : State} (p : Port) (payload : List Byte) (hr : s.resetPeriod = none)
    (hs : s.numbered) : (ReqKind.rule k p payload s).state.numbered := by
  cases k with
  | openSession => exact numbered_openOwn p payload hs
  | close => exact numbered_teardown p hs
  | setTime => exact numbered_hearClosed.setTime (fun _ _ _ _ h => h) s _ hs
  | configLine => exact numbered_configLineOwn p payload hs
  | readLines =>
    exact finishSample_keeps (fun s l _ h => numbered_hearClosed.takeLine s l h) (fun _ _ _ h => h) s hr hs
  | resyncSet => exact numbered_resyncSetOwn p payload hs
  | disarmSet => exact numbered_disarmSetOwn p payload hs
  | adoptSet => exact numbered_adoptSetOwn p payload hs
  | ack => exact numbered_ackOwn p payload hs
  | journalStatus => exact numbered_journalStatusOwn p payload hs
  | claimOutput => exact numbered_claimOutputOwn p payload hs
  | hello | ping | readLineConfig | readSet | readCounters | defineSet | armSet | deleteSet | ackSet
  | releaseOutput | writeOutputs | configOutput | readOutputs | restart =>
    exact numbered_of_only (rule_only _ p payload s) (by simp [ReqKind.writes]) hs

/-! ### The receiver, and every step -/

/-- The silence timer is no part of a numbering (R103). -/
theorem numbered_restartSilence {s : State} (p : Port) (hs : s.numbered) : (s.restartSilence p).numbered := by
  unfold State.restartSilence
  split
  · exact hs
  · exact hs
  · rename_i ho; exact numbered_putSession (by rw [ho]; rfl) hs

theorem numbered_handOn {s : State} (p : Port) (f : Frame) (hs : s.numbered) : (s.handOn p f).numbered := by
  have hsilence := numbered_restartSilence p hs
  unfold State.handOn
  dsimp only
  split <;> exact hsilence

theorem numbered_takeCharacter {s : State} (p : Port) (c : Byte) (hs : s.numbered) : (s.takeCharacter p c).numbered := by
  unfold State.takeCharacter State.takeLength State.takeBody State.takeCheck
  dsimp only
  split
  · split <;> exact hs
  · split <;> exact hs
  · exact hs
  · exact hs
  · split
    · exact numbered_handOn (s := s.putPort p _) p _ hs
    · exact hs

theorem numbered_receive {s : State} (p : Port) (c : Byte) (stop : Framing) (hs : s.numbered) :
    (s.receive p c stop).numbered := by
  have broken := numbered_of_only (takeFramingError_only s p) (by simp) hs
  unfold State.receive
  split
  · exact hs
  · cases stop with
    | good => exact numbered_takeCharacter p c hs
    | error => exact broken
    | brk => exact broken

/-- After a reset no record is INFLIGHT, and no mark is set (R71, R93, R156). -/
theorem numbered_of_reset {s : State} (hsessions : s.sessions = ⟨Session.reset, Session.reset⟩)
    (hjournals : s.journals = ⟨Journal.empty, Journal.empty⟩) (hengines : s.engines = ⟨Engine.reset, Engine.reset⟩) :
    s.numbered := by
  refine (numbered_iff s).mpr fun q => ?_
  rw [State.numbering, hsessions, hjournals, hengines]
  cases q <;> exact .none 1 (Nat.zero_le 32)

/-- Every part of every command keeps the numbering. -/
theorem numbered_closed : Closed State.numbered where
  own k p payload _ hr hs _ _ := numbered_rule k p payload hr hs
  pop _ _ _ hs := hs
  respond _ _ _ _ _ _ _ hs _ := hs
  line s l _ hs := numbered_hearClosed.takeLine s l hs
  notice _ p _ hs := numbered_buildNotice p hs
  retransmit _ p _ hs := numbered_expireRetransmit p hs
  silence s p _ hs := by
    unfold State.expireSilence
    split
    · exact numbered_lapse p _ hs
    · exact hs
  retain s p _ hs := by
    unfold State.expireRetain
    split
    · exact numbered_teardown p hs
    · exact hs
  grace _ _ _ hs := hs
  verify s o _ hs := numbered_hearClosed.verify s o hs
  receive _ p c x _ hs := numbered_receive p c x hs
  gap s p _ hs := numbered_of_only (expireGap_only s p) (by simp) hs
  send s p _ hs := numbered_of_only (sendResponse_only s p) (by simp) hs
  ends s p _ hs := numbered_of_only (endFrame_only s p) (by simp) hs
  idle _ _ _ hs := hs
  choice _ _ _ hs := hs
  tick _ _ _ hs := hs
  asserted _ _ := numbered_of_reset rfl rfl rfl
  sources _ _ _ _ hs := hs
  released s x hs := by
    unfold State.endReset
    split
    · exact hs
    · split
      · exact numbered_of_reset rfl rfl rfl
      · exact hs
  queue _ _ hs := hs

/-- Settles O56: the numbering is kept by every part of a step. -/
theorem everyStepKeepsTheNumbering : Obligations.EveryStepKeepsTheNumbering := numbered_closed.step

end Sys2Proof.Machine
end

section
/-! PROOFS. OPEN: how its payload reads back, its refusals, the fresh open and the resume (spec/05, R96 to R100). -/

namespace Sys2Proof.Machine

open Sys2Proof

/-! ### The payload of OPEN reads back -/

/-- The fields of an OPEN (R175, R176). -/
theorem openPayload_fields {tag keepalive window timeout limit retain replace : Nat} (htag : tag < 65536)
    (hkeepalive : keepalive < 65536) (hwindow : window < 256) (htimeout : timeout < 65536) (hlimit : limit < 256)
    (hretain : retain < 65536) (hreplace : replace < 256) :
    let payload := openPayload tag keepalive window timeout limit retain replace
    argLe payload 0 2 = tag ∧ argLe payload 2 2 = keepalive ∧ arg8 payload 4 = window ∧ argLe payload 5 2 = timeout ∧
      arg8 payload 7 = limit ∧ argLe payload 8 2 = retain ∧ arg8 payload 10 = replace := by
  have field : ∀ {n : Nat}, n < 65536 → leNat (leBytes 2 n) = n := fun h => by
    rw [leNat_leBytes]; exact Nat.mod_eq_of_lt h
  exact ⟨field htag, field hkeepalive, byteOf_small hwindow, field htimeout, byteOf_small hlimit, field hretain,
    byteOf_small hreplace⟩

/-- The payload of OPEN has its one valid length (R176). -/
theorem openPayload_length (tag keepalive window timeout limit retain replace : Nat) :
    (openPayload tag keepalive window timeout limit retain replace).length = ReqKind.openSession.length := rfl

/-- The arguments of an OPEN in range are the parameters and the flag that it was made of (R96). -/
theorem openArgs_inRange {prm : Params} (h : prm.inRange) (replace : Bool) :
    openParams (prm.payload replace) = some prm ∧ argFlag (prm.payload replace) 10 = some replace := by
  have hrange := h
  obtain ⟨-, -, hkeepalive, -, hwindow, -, htimeout, -, hlimit, hretain⟩ := h
  obtain ⟨ftag, fkeepalive, fwindow, ftimeout, flimit, fretain, freplace⟩ := openPayload_fields prm.tag.isLt
    (show prm.keepalive < 65536 by omega) (show prm.window < 256 by omega) (show prm.retryTimeout < 65536 by omega)
    (show prm.retryLimit < 256 by omega) (show prm.retain < 65536 by omega)
    (show replace.toNat < 256 by cases replace <;> decide)
  constructor
  · rw [openParams, Params.payload, ftag, fkeepalive, fwindow, ftimeout, flimit, fretain]
    simp only [BitVec.ofNat_toNat, BitVec.setWidth_eq]
    exact if_pos hrange
  · rw [argFlag, Params.payload, freplace]
    cases replace <;> rfl

/-! ### What OPEN does with the session it finds -/

/-- OPEN with an argument out of its range (R96). -/
theorem openOwn_badArg (p : Port) (s : State) {payload : List Byte}
    (h : openParams payload = none ∨ argFlag payload 10 = none) : openOwn p payload s = refuse s .badArg := by
  rcases h with h | h
  · simp only [openOwn, h]
  · unfold openOwn
    rw [h]
    cases openParams payload <;> rfl

/-- OPEN in range on a CLOSED session (R97). -/
theorem openOwn_closed {p : Port} {s : State} {prm : Params} (h : prm.inRange) (replace : Bool)
    (hst : (s.sessions.at p).state = .closed) : openOwn p (prm.payload replace) s = openFresh p prm s := by
  obtain ⟨hparams, hflag⟩ := openArgs_inRange h replace
  simp only [openOwn, hparams, hflag, hst]

/-- OPEN in range on an OPEN session (R97). -/
theorem openOwn_opened {p : Port} {s : State} {prm old : Params} {silence : Nat} (h : prm.inRange) (replace : Bool)
    (hst : (s.sessions.at p).state = .opened old silence) : openOwn p (prm.payload replace) s =
      if replace then openFresh p prm (s.teardown p) else refuse s .sessionActive := by
  obtain ⟨hparams, hflag⟩ := openArgs_inRange h replace
  simp only [openOwn, hparams, hflag, hst]

/-- OPEN in range on a LAPSED session (R97). -/
theorem openOwn_lapsed {p : Port} {s : State} {prm old : Params} {why : LapseReason} {retain : Nat} (h : prm.inRange)
    (replace : Bool) (hst : (s.sessions.at p).state = .lapsed old why retain) : openOwn p (prm.payload replace) s =
      if prm.tag = old.tag then openResume p old prm why s else openFresh p prm (s.teardown p) := by
  obtain ⟨hparams, hflag⟩ := openArgs_inRange h replace
  simp only [openOwn, hparams, hflag, hst]

/-- A resume in the terms of the statements (R73, R99, R131). -/
theorem resume_eq (s : State) (p : Port) {old prm : Params} (htag : prm.tag = old.tag) : s.resume p old prm =
    { s with
      sessions := s.sessions.put p
        { s.sessions.at p with
          state := .opened { prm with window := old.window } (s.now + 4 * (3 * prm.keepalive))
          lostSets := []
          lostOutputs := [] }
      engines := s.engines.put p
        { s.engines.at p with retryCount := 0, goBack := (s.journals.at p).inflight.head?.map Sent.seq }
      outputs := s.outputs.update fun _ o => match o.state with
        | .grace q _ => if q = p then { o with state := .owned p } else o
        | .free | .owned _ | .safeHeld _ => o } := by
  unfold State.resume
  simp only [State.updateOutputs, State.putEngine, State.putSession, Output.resume_eq, ← htag]
  rfl

/-- The answer of an OPEN that makes a fresh open of the state t (R98, R100). -/
theorem openFresh_answered {p : Port} {s t : State} {f : Frame} {prm : Params} {replace : Bool}
    (h : s.serves p .openSession (prm.payload replace) f)
    (hown : openOwn p (prm.payload replace) (s.popRequest p) = openFresh p prm (t.popRequest p)) :
    exec (.openSession p) s = .next ((t.freshlyOpened p prm).answered p f .ok
      [0, 0, BitVec.ofNat 8 prm.window, 0, 0, 1, 0, 0, 0, 0, 0]) :=
  exec_answered h (openPayload_length ..) rfl (hown.trans rfl)

/-- A teardown does not hang on the request that asks for it (R107). -/
theorem teardown_popRequest (s : State) (p : Port) : (s.popRequest p).teardown p = (s.tornDown p).popRequest p := by
  rw [State.teardown_eq]
  rfl

/-- Settles O10: the fresh open by the session found, and the two refusals. -/
theorem openMakesAFreshSession : Obligations.OpenMakesAFreshSession := by
  refine ⟨fun p s f prm replace hrange h => ?_, ?_, fun p s f prm hrange h ho => ?_⟩
  · dsimp only
    split
    · rename_i hst
      exact openFresh_answered h (openOwn_closed (s := s.popRequest p) hrange replace hst)
    · rename_i hst
      refine fun hreplace => openFresh_answered h ?_
      rw [openOwn_opened (s := s.popRequest p) hrange replace hst, if_pos hreplace, teardown_popRequest]
    · rename_i hst
      refine fun htag => openFresh_answered h ?_
      rw [openOwn_lapsed (s := s.popRequest p) hrange replace hst, if_neg htag, teardown_popRequest]
  · intro p s f tag keepalive window timeout limit retain replace ht hk hw hto hl hr hrep hbad h
    refine exec_answered h (openPayload_length ..) rfl (openOwn_badArg p _ ?_)
    obtain ⟨ftag, fkeepalive, fwindow, ftimeout, flimit, fretain, freplace⟩ := openPayload_fields ht hk hw hto hl hr hrep
    rw [argFlag_eq, freplace, openParams, ftag, fkeepalive, fwindow, ftimeout, flimit, fretain]
    by_cases hflag : replace ≤ 1
    · exact Or.inl (if_neg fun hargs => hbad (by tauto))
    · exact Or.inr (if_neg hflag)
  · refine exec_answered h (openPayload_length ..) rfl ?_
    unfold State.isOpen at ho
    cases hst : (s.sessions.at p).state with
    | opened old silence => exact openOwn_opened (s := s.popRequest p) hrange false hst
    | closed => rw [hst] at ho; contradiction
    | lapsed old why retain => rw [hst] at ho; contradiction

/-- Settles O11: the same tag resumes, and the report is made of the session as it stood. -/
theorem openResumesALapsedSession : Obligations.OpenResumesALapsedSession := by
  intro p s f prm old why retain replace hrange h hst htag e oldest
  refine exec_answered h (openPayload_length ..) rfl ?_
  rw [openOwn_lapsed (s := s.popRequest p) hrange replace hst, if_pos htag, openResume, resume_eq _ _ htag]
  cases why <;> rfl

end Sys2Proof.Machine
end

section
/-! PROOFS. RETRANSMIT_EXPIRY (spec/04, 4.3; R83, R84, R105). -/

namespace Sys2Proof.Machine

open Sys2Proof

/-- Settles O45: the retry is counted, and the limit decides between go-back and lapse. -/
theorem theRetransmitExpiryGoesBackOrLapses : Obligations.TheRetransmitExpiryGoesBackOrLapses := by
  intro p s prm silence expiry hr ho ht he e
  have hdue : expired s.now e.retransmit = true := by rw [ht]; exact decide_eq_true he
  have hprm : s.openParams? p = some prm := by rw [State.openParams?, ho]
  have hexec : exec (.retransmitExpiry p) s = .next (s.expireRetransmit p) := whenRunning_running hr fun s => s.expireRetransmit p
  rw [hexec, State.expireRetransmit, if_pos hdue, hprm]
  dsimp only
  refine ⟨fun hlimit => ?_, fun hlimit => ?_⟩
  · rw [if_neg (not_lt.mpr hlimit)]
    simp [State.putEngine, e]
  · rw [if_pos hlimit]
    exact congrArg Host.Outcome.next (State.lapse_eq (s := s.putEngine p _) ho .retry)

end Sys2Proof.Machine
end

section
/-! PROOFS. NOTICE_BUILD: the records of a notice, its frame, and what its building leaves behind (spec/04, 4.2 and 4.3; R74 to
R79, R82, R179). -/

namespace Sys2Proof.Machine

open Sys2Proof

/-! ### The records of a notice -/

/-- With records of at most 16 bytes a notice is limited by the number of its records and by the window alone (R75, R77, R181). -/
theorem chooseRecords_eq (window : Nat) (e : Engine) {j : Journal} (h : ∀ r ∈ j.records, r.bytes.length ≤ 16) :
    let run := resendRun e.goBack j.inflight
    let resent := run.take 8
    let mark := (run.drop 8).head?.map Sent.seq
    chooseRecords window e j =
      { resent := resent
        fresh := if mark = none then j.unsent.take (min (8 - resent.length) (window - j.inflight.length)) else []
        mark := mark } := by
  have hsuffix := resendRun_suffix e.goBack j.inflight
  dsimp only
  rw [chooseRecords]
  generalize resendRun e.goBack j.inflight = run at hsuffix
  have hrun : ∀ r ∈ run.map Sent.entry, r.bytes.length ≤ 16 := fun r hr =>
    h r (List.mem_append_left _ ((hsuffix.map _).subset hr))
  have hresent : run.take (placed Config.noticeRecords Config.noticeBytes (run.map Sent.entry)).length = run.take 8 := by
    rw [placed_eq _ _ _ hrun (by decide), ← List.map_take, List.length_map]
    exact List.take_eq_take_iff.mpr (by simp [Config.noticeRecords])
  have hmark : run.drop (run.take 8).length = run.drop 8 := List.drop_eq_drop_iff.mpr (by simp)
  have hbytes : (bodyBytes ((run.take 8).map Sent.entry)).length ≤ 16 * (run.take 8).length :=
    (bodyBytes_le _ fun r hr => hrun r (((List.take_prefix 8 run).map _).subset hr)).trans_eq (by rw [List.length_map])
  have hlength : (run.take 8).length ≤ 8 := List.length_take_le ..
  have hfresh : placed (Config.noticeRecords - (run.take 8).length)
      (Config.noticeBytes - (bodyBytes ((run.take 8).map Sent.entry)).length) j.unsent =
        j.unsent.take (8 - (run.take 8).length) :=
    placed_eq _ _ _ (fun r hr => h r (List.mem_append_right _ hr)) (by
      simp only [Config.noticeRecords, Config.noticeBytes]; omega)
  simp only [hresent, hfresh, hmark, List.take_take, Option.isNone_iff_eq_none, Nat.min_comm]

/-! ### The frame, the journal and the engine -/

/-- The first number of a notice (R179). -/
theorem firstSeq_eq (records : List Sent) (next : Sys2Proof.Seq) : (records.head?.map Sent.seq).getD next =
    match records with
    | [] => next
    | x :: _ => x.seq := by
  cases records <;> rfl

/-- The flags of a notice: the loss flag in bit 0, repeat in bit 1 (R179). -/
theorem noticeFlags_eq (loss : Bool) (resent : List Sent) :
    noticeFlags loss (!resent.isEmpty) = (if loss then 1 else 0) ||| (if resent = [] then 0 else 2) := by
  cases resent <;> cases loss <;> simp [noticeFlags, bitsToNat, byteOf]

/-- The records of a notice: the resent ones, then the new ones, each with its number (R74, R77). -/
theorem records_eq (c : Choice) (next : Sys2Proof.Seq) : c.records next =
    c.resent ++ c.fresh.zipIdx.map fun x => { seq := next + BitVec.ofNat 16 x.2, entry := x.1 } := by
  rw [Choice.records, number_zip]

/-- The new records of a notice stand behind the resent ones. -/
theorem records_drop (c : Choice) (next : Sys2Proof.Seq) :
    (c.records next).drop c.resent.length = number next c.fresh := List.drop_left

/-- The retransmit timer of an OPEN session runs for its retry timeout (R82). -/
theorem retransmitExpiry_opened {s : State} {p : Port} {prm : Params} {silence : Nat}
    (ho : (s.sessions.at p).state = .opened prm silence) : s.retransmitExpiry p = s.now + 4 * prm.retryTimeout := by
  rw [State.retransmitExpiry, ho]
  rfl

/-- The sending of a notice in its three writes (R76 to R79). -/
theorem sendNotice_eq (s : State) (p : Port) (window : Nat) :
    let c := chooseRecords window (s.engines.at p) (s.journals.at p)
    s.sendNotice p window =
      { s with
        ports := s.ports.put p { s.ports.at p with sending := some (s.noticeFrame p c) }
        journals := s.journals.put p ((s.journals.at p).sendFresh (s.engines.at p).nextSeq c.fresh)
        engines := s.engines.put p ((s.engines.at p).built (s.retransmitExpiry p) c (s.journals.at p)) } := rfl

/-! ### When a notice is built -/

/-- The engine has work (R76). -/
theorem hasWork_iff (s : State) (p : Port) (window : Nat) : s.hasWork p window = true ↔
    (s.engines.at p).goBack ≠ none ∨
      ((s.journals.at p).unsent ≠ [] ∧ (s.journals.at p).inflight.length < window) ∨
      (s.engines.at p).statusChanged = true := by
  simp [State.hasWork, Option.isSome_iff_ne_none, or_assoc]

/-- A notice is built on an OPEN session with a free transmitter, no response waiting and work for the engine (R76). -/
theorem buildNotice_sends {s : State} {p : Port} {prm : Params} {silence : Nat}
    (ho : (s.sessions.at p).state = .opened prm silence) (hsending : (s.ports.at p).sending = none)
    (hresponses : (s.ports.at p).responses = []) (hwork : s.hasWork p prm.window = true) :
    s.buildNotice p = s.sendNotice p prm.window := by
  have hprm : s.openParams? p = some prm := by rw [State.openParams?, ho]
  simp [State.buildNotice, hprm, LinkPort.idle, hsending, hresponses, hwork]

/-- In every other state none is built (R76). -/
theorem buildNotice_none {s : State} {p : Port}
    (h : ∀ prm silence, (s.sessions.at p).state = .opened prm silence → (s.ports.at p).sending = none →
      (s.ports.at p).responses = [] → ¬ s.hasWork p prm.window = true) : s.buildNotice p = s := by
  unfold State.buildNotice
  split
  · rfl
  · rename_i prm hprm
    obtain ⟨silence, ho⟩ := openParams?_opened hprm
    refine if_neg fun hbuilt => ?_
    simp only [Bool.and_eq_true, LinkPort.idle, Option.isNone_iff_eq_none, List.isEmpty_iff] at hbuilt
    obtain ⟨⟨hsending, hresponses⟩, hwork⟩ := hbuilt
    exact h prm silence ho hsending hresponses hwork

/-- A state that a guarded command leaves as it is. -/
theorem whenRunning_same {s : State} {f : State → State} (h : f s = s) : whenRunning s f = .next s := by
  rw [whenRunning, h, ite_self]

/-- Settles O43: the notice by its records, its frame and what it leaves behind, and the states in which none is built. -/
theorem aNoticeIsBuiltAndSent : Obligations.ANoticeIsBuiltAndSent := by
  constructor
  · intro p s prm silence hr ho hsending hresponses e j hbytes hwork run resent mark fresh sent first oldestPlaced
    have hchoice : chooseRecords prm.window e j = { resent := resent, fresh := fresh, mark := mark } :=
      chooseRecords_eq prm.window e hbytes
    have hsent := records_eq { resent := resent, fresh := fresh, mark := mark } e.nextSeq
    have hbehind : sent.drop resent.length = number e.nextSeq fresh := by
      rw [← records_drop { resent := resent, fresh := fresh, mark := mark }, hsent]
    have hexec : exec (.noticeBuild p) s = .next (s.buildNotice p) := whenRunning_running hr fun s => s.buildNotice p
    rw [hexec, buildNotice_sends ho hsending hresponses ((hasWork_iff ..).mpr hwork), sendNotice_eq, hchoice, hbehind,
      retransmitExpiry_opened ho, State.noticeFrame, hsent, firstSeq_eq, noticeFlags_eq]
    rfl
  · intro p s h
    refine whenRunning_same (f := fun s => s.buildNotice p) (buildNotice_none fun prm silence ho hsending hresponses hwork => ?_)
    rw [hasWork_iff] at hwork
    rcases h with h | h | h | ⟨hmark, hstatus, hwait⟩
    · rw [State.isOpen, ho] at h; contradiction
    · exact h hsending
    · exact h hresponses
    · rcases hwork with hgoBack | ⟨hunsent, hroom⟩ | hraised
      · exact hgoBack hmark
      · rcases hwait with hempty | hfull
        · exact hunsent hempty
        · exact absurd (hfull prm silence ho) (not_le.mpr hroom)
      · exact Bool.false_ne_true (hstatus.symm.trans hraised)

end Sys2Proof.Machine
end

section
/-! PROOFS. The checks that come before a request's own rule (spec/10, R172 and R173). -/

namespace Sys2Proof.Machine

open Sys2Proof

/-- A frame that fails a common check is answered with its status, and nothing else changes (R172, R173). -/
theorem takeRequest_refused {k : ReqKind} {own : Port → List Byte → State → Answer} {s : State} {p : Port} {f : Frame}
    {status : Status} (ht : s.takes p f) (hk : f.kind = k.code) (hc : checkRequest k s p f.payload = some status) :
    takeRequest k own p s = s.answered p f status [] := by
  have hpop : checkRequest k (s.popRequest p) p f.payload = some status := hc
  simp only [takeRequest, nextRequest_eq_some.mpr ht, if_pos hk, hpop, refuse]
  rw [respond_popRequest, State.answered, hk]
  rfl

/-- The length check comes first, whatever the session (R172). -/
theorem checkRequest_length {k : ReqKind} {s : State} {p : Port} {payload : List Byte} (hl : payload.length ≠ k.length) :
    checkRequest k s p payload = some .badRequest := if_pos hl

/-- At the right length the session is checked (R95). -/
theorem checkRequest_session {k : ReqKind} {s : State} {p : Port} {payload : List Byte} (hl : payload.length = k.length)
    (hk : k.needsSession = true) (ho : s.isOpen p = false) : checkRequest k s p payload = some .noSession := by
  rw [checkRequest, if_neg (not_not.mpr hl), hk, ho]
  rfl

/-- HELLO and OPEN alone are exempt from the session check (R173). -/
theorem needsSession_iff (k : ReqKind) : k.needsSession = true ↔ k ≠ .hello ∧ k ≠ .openSession := by
  cases k <;> decide

/-- Settles O6: the length check decides first, then the session check. -/
theorem theFirstChecksOfARequest : Obligations.TheFirstChecksOfARequest := by
  refine ⟨fun k p s f ht hk hl => ?_, fun k p s f ht hk hl hhello hopen ho => ?_⟩
  · rw [exec_take, takeRequest_refused ht hk (checkRequest_length hl)]
  · have hneeds := (needsSession_iff k).mpr ⟨hhello, hopen⟩
    rw [exec_take, takeRequest_refused ht hk (checkRequest_session hl hneeds ho)]

end Sys2Proof.Machine
end

section
/-! PROOFS. CLOSE and PING (spec/05, R101 and R102). -/

namespace Sys2Proof.Machine

open Sys2Proof

/-- Settles O12: the rule of CLOSE is the teardown. -/
theorem closeTearsTheSessionDown : Obligations.CloseTearsTheSessionDown := by
  intro p s f h
  refine exec_answered h rfl rfl ?_
  rw [closeOwn, teardown_popRequest]
  rfl

/-- The session state in one byte (R175). -/
theorem sessState_byte (st : SessState) : st.byte = match st with
    | .closed => 0
    | .opened _ _ => 1
    | .lapsed _ _ _ => 2 := by cases st <;> rfl

/-- An OPEN session in one byte (R175). -/
theorem sessState_byte_of_isOpen {st : SessState} (h : st.isOpen = true) : st.byte = 1 := by
  cases st with
  | opened prm silence => rfl
  | closed => contradiction
  | lapsed prm why retain => contradiction

/-- The report of PING field by field, on an OPEN session (R102, R177). -/
theorem pingResults_eq {s : State} {p : Port} (ho : s.isOpen p = true) : pingResults p s =
    leBytes 4 s.time.toNat ++
      ([1, match (s.sessions.at p.other).state with
        | .closed => 0
        | .opened _ _ => 1
        | .lapsed _ _ _ => 2] : List Byte) ++
      maskBytes 2 16 (s.staleMask p) ++ maskBytes 2 16 (s.attentionMask p) ++
      [byteOf (s.journals.at p).unsent.length, byteOf (s.journals.at p).inflight.length,
        if (s.sessions.at p).loss then 1 else 0] := by
  simp only [pingResults, State.maskFields, sessState_byte_of_isOpen ho, sessState_byte (s.sessions.at p.other).state, flagByte,
    List.append_assoc]

/-- Settles O13: the rule of PING is its report. -/
theorem pingReportsAndChangesNothing : Obligations.PingReportsAndChangesNothing := by
  intro p s f h
  have ⟨_, _, _, hsession⟩ := h
  have ho : s.isOpen p = true := hsession rfl
  refine exec_answered h rfl rfl ?_
  rw [pingOwn, pingResults_eq (s := s.popRequest p) ho]
  rfl

end Sys2Proof.Machine
end

section
/-! PROOFS. ADOPT_SET: the refusals, and the adoption in its four writes (spec/06, R113 to R116). -/

namespace Sys2Proof.Machine

open Sys2Proof

/-- An adoption leaves an IDLE set IDLE and makes any other STALE (ADOPTED) (R114). -/
theorem phase_adopt (x : SetPhase) : x.adopt = if x = .idle then .idle else .stale .adopted := by
  cases x <;> rfl

/-- The phase after an adoption in one byte (R114, R175). -/
theorem phase_adopt_byte (x : SetPhase) : x.adopt.byte = if x = .idle then 1 else 3 := by
  cases x <;> rfl

/-- An adoption in the terms of the statements: set, loser's journal, loser's lost sets, requester's mark (R114 to R116). -/
theorem adopt_eq (s : State) (p : Port) (w : SetId) (ws : WatchSet) : s.adopt p w ws =
    { s with
      sets := s.sets.put w (some { ws with owner := p, phase := if ws.phase = .idle then .idle else .stale .adopted })
      journals := s.journals.put p.other
        { inflight := (s.journals.at p.other).inflight.map fun x =>
            if x.entry.body.set? = some w then { x with entry := { x.entry with body := .void w } } else x
          unsent := (s.journals.at p.other).unsent.filter fun r => decide (r.body.set? ≠ some w) }
      sessions := s.sessions.put p.other
        { s.sessions.at p.other with lostSets := insertAscending w (s.sessions.at p.other).lostSets }
      engines := s.engines.put p { s.engines.at p with statusChanged := true } } := by
  rw [← voided_eq, ← phase_adopt]
  rfl

/-- ADOPT_SET of a FREE set (R113). -/
theorem adoptSetOwn_free (p : Port) {s : State} {w : SetId} (hs : s.sets.at w = none) :
    adoptSetOwn p [byteOf w.val] s = refuse s .wrongState := by
  simp only [adoptSetOwn, arg16th_set, hs]

/-- What ADOPT_SET makes of the set it finds, by the owner and the owner's session (R113). -/
theorem adoptSetOwn_found (p : Port) {s : State} {w : SetId} {ws : WatchSet} (hs : s.sets.at w = some ws) :
    adoptSetOwn p [byteOf w.val] s =
      if ws.owner = p then refuse s .wrongState
      else if s.isLapsed p.other then accept (s.adopt p w ws) [ws.phase.adopt.byte]
      else refuse s .conflict := by
  simp only [adoptSetOwn, arg16th_set, hs]

/-- Settles O28: the set found, its owner and the owner's session decide. -/
theorem adoptSetMovesALapsedSessionsSet : Obligations.AdoptSetMovesALapsedSessionsSet := by
  refine ⟨fun p s f w h => ?_,
    fun x list hlist => ⟨insertAscending_sorted x list hlist, fun y => mem_insertAscending x y list⟩⟩
  have answers := fun u st rs => exec_answered (c := .adoptSet p) (u := u) (st := st) (rs := rs) h rfl rfl
  split
  · rename_i hs
    exact answers _ _ _ (adoptSetOwn_free p (s := s.popRequest p) hs)
  · rename_i ws hs
    have own := adoptSetOwn_found p (s := s.popRequest p) hs
    rw [popRequest_isLapsed] at own
    split
    · rename_i ho
      exact answers _ _ _ (own.trans (if_pos ho))
    · rename_i ho
      rw [if_neg ho] at own
      split
      · rename_i hl
        rw [if_neg (by simp [hl])] at own
        exact answers _ _ _ own
      · rename_i hl
        rw [if_pos (by simpa using hl), adopt_eq, phase_adopt_byte] at own
        exact answers _ _ _ own

end Sys2Proof.Machine
end

section
/-! PROOFS. CLAIM_OUTPUT: its arguments, its refusals, and the claim of all the named outputs (spec/07, R132; spec/06, R119). -/

namespace Sys2Proof.Machine

open Sys2Proof

/-- The payload of CLAIM_OUTPUT reads back: the outputs named and the take flag (R175, R176). -/
theorem claimArgs (named : OutId → Bool) {take : Nat} (ht : take < 256) :
    let payload := maskBytes 2 16 named ++ [byteOf take]
    argMask 16 payload 0 2 = (List.finRange 16).filter (fun o => named o) ∧
      argFlag payload 2 = if take ≤ 1 then some (decide (take = 1)) else none := by
  refine ⟨mask_arg named _, ?_⟩
  have hbyte : arg8 (maskBytes 2 16 named ++ [byteOf take]) 2 = take := byteOf_small ht
  rw [argFlag_eq, hbyte]

/-- A claim refuses what the other session owns and may not be taken from it (R132). -/
theorem claimRefused_iff (s : State) (p : Port) (take : Bool) (o : OutId) : s.claimRefused p take o = true ↔
    (s.outputs.at o).state.owner = some p.other ∧ ¬ (take = true ∧ s.isLapsed p.other = true) := by
  unfold State.claimRefused
  cases (s.outputs.at o).state.owner with
  | none => simp
  | some q =>
    by_cases hq : q = p
    · subst hq; simp
    · have hother := Port.eq_other_of_ne hq
      subst hother
      cases take <;> simp

/-- An output without an owner is FREE (R127). -/
theorem owner_eq_none {x : OutState} : x.owner = none ↔ x = .free := by
  cases x <;> simp [OutState.owner]

/-- A claim changes no driven level (R119, R132). -/
theorem claim_driven (p : Port) (r : Output) : (r.claim p).driven = r.driven := by
  rw [Output.claim_eq]
  split
  · rename_i ho
    simp only [Output.driven, owner_eq_none.mp ho]
  · split <;> rfl

/-- An accepted claim in the terms of the statements: the outputs, and the loser's lost outputs (R119, R132). -/
theorem claim_eq (s : State) (p : Port) (named : OutId → Bool) : s.claim p ((List.finRange 16).filter fun o => named o) =
    { s with
      outputs := s.outputs.update fun o r => if named o then r.claim p else r
      sessions := s.sessions.put p.other
        { s.sessions.at p.other with
          lostOutputs := ((List.finRange 16).filter fun o =>
              named o && decide ((s.outputs.at o).state.owner = some p.other)).foldl
            (fun list o => insertAscending o list) (s.sessions.at p.other).lostOutputs } } := by
  simp only [State.claim, State.takenOutputs, List.filter_filter, List.mem_filter, List.mem_finRange, true_and, Bool.and_comm]
  rfl

/-- The result of an accepted claim: the levels that the named outputs drove before it (R177). -/
theorem claim_results (s : State) (p : Port) (named : OutId → Bool) (o : OutId) :
    (decide (o ∈ (List.finRange 16).filter fun o => named o) &&
      ((s.claim p ((List.finRange 16).filter fun o => named o)).outputs.at o).driven) =
      (named o && (s.outputs.at o).driven) := by
  rw [claim_eq]
  cases hn : named o
  · simp [hn]
  · simp [hn, claim_driven]

/-- What CLAIM_OUTPUT makes of its arguments (R132). -/
theorem claimOutputOwn_eq (p : Port) (s : State) (named : OutId → Bool) {take : Nat} (ht : take < 256) :
    let outcome := claimOutputOwn p (maskBytes 2 16 named ++ [byteOf take]) s
    let refused := ∃ o, named o = true ∧ (s.outputs.at o).state.owner = some p.other ∧
      ¬ (take = 1 ∧ s.isLapsed p.other = true)
    (2 ≤ take ∨ (∀ o, named o = false) → outcome = refuse s .badArg) ∧
    (take ≤ 1 → (∃ o, named o = true) → refused → outcome = refuse s .conflict) ∧
    (take ≤ 1 → (∃ o, named o = true) → ¬ refused → outcome =
      accept (s.claim p ((List.finRange 16).filter fun o => named o))
        (maskBytes 2 16 fun o => named o && (s.outputs.at o).driven)) := by
  intro outcome refused
  obtain ⟨hmask, hflag⟩ := claimArgs named ht
  have hempty := filter_isEmpty named
  have hnamed : (∃ o, named o = true) → ¬ ((List.finRange 16).filter fun o => named o).isEmpty = true :=
    fun ⟨o, ho⟩ he => Bool.false_ne_true ((hempty.mp he o).symm.trans ho)
  have hrefused : ((List.finRange 16).filter fun o => named o).any (s.claimRefused p (decide (take = 1))) = true ↔ refused := by
    simp [List.any_eq_true, claimRefused_iff, refused]
  refine ⟨fun hbad => ?_, fun hle hn href => ?_, fun hle hn href => ?_⟩
  · by_cases hle : take ≤ 1
    · have hnone := hbad.resolve_left (by omega)
      simp only [outcome, claimOutputOwn, hmask, hflag, if_pos hle, if_pos (hempty.mpr hnone)]
    · simp only [outcome, claimOutputOwn, hflag, if_neg hle]
  · simp only [outcome, claimOutputOwn, hmask, hflag, if_pos hle, if_neg (hnamed hn), if_pos (hrefused.mpr href)]
  · simp only [outcome, claimOutputOwn, hmask, hflag, if_pos hle, if_neg (hnamed hn), if_neg fun h => href (hrefused.mp h),
      claim_results]

/-- Settles O31: the arguments and the owners decide, and an accepted claim is that of `claim_eq`. -/
theorem claimOutputTakesAllOrNone : Obligations.ClaimOutputTakesAllOrNone := by
  refine ⟨fun p s f named take ht h => ?_,
    fun x list hlist => ⟨insertAscending_sorted x list hlist, fun y => mem_insertAscending x y list⟩⟩
  have answers := fun u st rs => exec_answered (c := .claimOutput p) (u := u) (st := st) (rs := rs) h rfl rfl
  obtain ⟨badArg, conflict, claimed⟩ := claimOutputOwn_eq p (s.popRequest p) named ht
  refine ⟨fun hbad => answers _ _ _ (badArg hbad), fun hle hn href => answers _ _ _ (conflict hle hn href),
    fun hle hn href => answers _ _ _ ((claimed hle hn href).trans ?_)⟩
  rw [claim_eq]
  simp only [Output.claim_eq]
  rfl

end Sys2Proof.Machine
end

section
/-! PROOFS. SILENCE_EXPIRY, RETAIN_EXPIRY and GRACE_EXPIRY (spec/05, R103 to R107; spec/07, R130). -/

namespace Sys2Proof.Machine

open Sys2Proof

/-- The expired silence timer of an OPEN session lapses it (R103, R105). -/
theorem expireSilence_due {s : State} {p : Port} {prm : Params} {silence : Nat}
    (ho : (s.sessions.at p).state = .opened prm silence) (he : silence ≤ s.now) :
    s.expireSilence p = s.lapsedFrom p prm .silence := by
  have hdue : (s.sessions.at p).state.silenceDue s.now = true := by rw [ho]; exact decide_eq_true he
  rw [State.expireSilence, if_pos hdue, State.lapse_eq ho]

/-- The expired retain timer of a LAPSED session tears it down (R106). -/
theorem expireRetain_due {s : State} {p : Port} {prm : Params} {why : LapseReason} {retain : Nat}
    (hl : (s.sessions.at p).state = .lapsed prm why retain) (he : retain ≤ s.now) : s.expireRetain p = s.tornDown p := by
  have hdue : (s.sessions.at p).state.retainDue s.now = true := by rw [hl]; exact decide_eq_true he
  rw [State.expireRetain, if_pos hdue, State.teardown_eq]

/-- The expired grace timer of an output puts it in SAFE_HELD (R130). -/
theorem expireGrace_due {s : State} {o : OutId} {p : Port} {expiry : Nat} (hg : (s.outputs.at o).state = .grace p expiry)
    (he : expiry ≤ s.now) :
    s.expireGrace o = s.putOutput o ((s.outputs.at o).reverified { s.outputs.at o with state := .safeHeld p }) := by
  rw [State.expireGrace, Output.endGrace, hg]
  dsimp only
  rw [if_pos he, Output.become_eq]

/-- Settles O46: each expiry is due, and does what its rule says. -/
theorem expiriesOfSessionsAndGrace : Obligations.ExpiriesOfSessionsAndGrace := by
  refine ⟨fun p s prm silence hr ho he => ?_, fun p s prm why retain hr hl he => ?_, fun o s p expiry hr hg he => ?_⟩
  · rw [← expireSilence_due ho he]
    exact whenRunning_running hr fun s => s.expireSilence p
  · rw [← expireRetain_due hl he]
    exact whenRunning_running hr fun s => s.expireRetain p
  · have hexec : exec (.graceExpiry o) s = .next (s.expireGrace o) := whenRunning_running hr fun s => s.expireGrace o
    rw [hexec, expireGrace_due hg he]
    rfl

end Sys2Proof.Machine
end

section
/-! PROOFS. The second check byte: the frame handed on or discarded (spec/09, R161 to R164). -/

namespace Sys2Proof.Machine

open Sys2Proof

/-- A valid frame restarts the silence timer of an OPEN session, and leaves any other (R103, R164). -/
theorem restartSilence_eq (s : State) (p : Port) : s.restartSilence p =
    { s with
      sessions := match (s.sessions.at p).state with
        | .opened prm _ =>
          s.sessions.put p { s.sessions.at p with state := .opened prm (s.now + 4 * (3 * prm.keepalive)) }
        | .closed | .lapsed _ _ _ => s.sessions } := by
  unfold State.restartSilence
  cases (s.sessions.at p).state with
  | closed => rfl
  | opened prm silence => rfl
  | lapsed prm why retain => rfl

/-- A good character on a listening port goes to the frame receiver. -/
theorem exec_characterReceived_good {s : State} {p : Port} (hr : s.resetPeriod = none)
    (hi : (s.ports.at p).awaitIdle = false) (c : Byte) :
    exec (.characterReceived p c .good) s = .next (s.takeCharacter p c) := by
  have hexec : exec (.characterReceived p c .good) s = .next (s.receive p c .good) :=
    whenRunning_running hr fun s => s.receive p c .good
  rw [hexec, State.receive, if_neg (by simp [hi])]

/-- The second check byte decides (R161). -/
theorem takeCharacter_check {s : State} {p : Port} {len low : Byte} {got : List Byte} {g : Nat}
    (h : (s.ports.at p).receiver = .crc len got (some low) g) (high : Byte) :
    s.takeCharacter p high = s.takeCheck p len got low high := by
  rw [State.takeCharacter, h]

/-- The check is received low byte first (R161). -/
theorem leNat_two (low high : Byte) : leNat [low, high] = low.toNat + 256 * high.toNat := by
  simp [leNat]

/-- A valid frame joins the request queue, or is dropped with the overrun flag set (R164). -/
theorem handOn_eq (s : State) (p : Port) (f : Frame) : s.handOn p f =
    { s with
      sessions := (s.restartSilence p).sessions
      ports := s.ports.put p
        (if (s.ports.at p).requests.length < 4 then { s.ports.at p with requests := (s.ports.at p).requests ++ [f] }
         else { s.ports.at p with overrun := true }) } := by
  have hheard : s.restartSilence p = { s with sessions := (s.restartSilence p).sessions } := by rw [restartSilence_eq]
  generalize (s.restartSilence p).sessions = heard at hheard ⊢
  simp only [State.handOn, hheard]
  by_cases hroom : (s.ports.at p).requests.length < 4
  · rw [if_pos hroom]
    exact if_pos hroom
  · rw [if_neg hroom]
    exact if_neg hroom

/-- Settles O49: the check decides between the frame handed on and the frame discarded. -/
theorem theCheckDecidesTheFrame : Obligations.TheCheckDecidesTheFrame := by
  intro p s len kind tag low high payload g hr hi hrec port valid heard
  rw [exec_characterReceived_good hr hi, takeCharacter_check hrec, State.takeCheck, leNat_two]
  refine ⟨fun hv => ?_, fun hv => ?_⟩
  · rw [if_pos hv, handOn_eq, restartSilence_eq]
    simp only [State.putPort_ports, PerPort.at_put_same, PerPort.put_put]
    rfl
  · rw [if_neg hv]
    rfl

end Sys2Proof.Machine
end

section
/-! PROOFS. RELEASE_OUTPUT, WRITE_OUTPUTS and READ_OUTPUTS: the requests over named outputs, all of them the requester's (spec/07,
R134, R135 and R137). -/

namespace Sys2Proof.Machine

open Sys2Proof

/-! ### The named outputs and their owner -/

/-- The outputs that a mask names. -/
theorem mem_outputsNamed (named : OutId → Bool) (o : OutId) :
    (o ∈ (List.finRange 16).filter fun o => named o) ↔ named o = true := by
  simp

/-- Every named output is the requester's (R134, R135, R137). -/
theorem all_ownsOutput (s : State) (p : Port) (named : OutId → Bool) :
    ((List.finRange 16).filter fun o => named o).all (s.ownsOutput p) = true ↔
      ∀ o, named o = true → (s.outputs.at o).state.owner = some p := by
  simp only [List.all_eq_true, mem_outputsNamed, State.ownsOutput, decide_eq_true_eq]

/-- A named output that is not the requester's stops the whole request (R134, R137). -/
theorem not_all_ownsOutput {s : State} {p : Port} {named : OutId → Bool}
    (h : ∃ o, named o = true ∧ (s.outputs.at o).state.owner ≠ some p) :
    ¬ ((List.finRange 16).filter fun o => named o).all (s.ownsOutput p) = true := fun hall => by
  obtain ⟨o, hn, ho⟩ := h
  exact ho ((all_ownsOutput s p named).mp hall o hn)

/-- A mask that names an output is not empty. -/
theorem outputsNamed_nonempty {named : OutId → Bool} (h : ∃ o, named o = true) :
    ¬ ((List.finRange 16).filter fun o => named o).isEmpty = true := fun he => by
  obtain ⟨o, ho⟩ := h
  exact Bool.false_ne_true (((filter_isEmpty named).mp he o).symm.trans ho)

/-! ### RELEASE_OUTPUT -/

/-- An accepted RELEASE_OUTPUT frees the named outputs (R134). -/
theorem releaseOutputOwn_accepts {s : State} {p : Port} {named : OutId → Bool} (hn : ∃ o, named o = true)
    (hown : ∀ o, named o = true → (s.outputs.at o).state.owner = some p) :
    releaseOutputOwn p (maskBytes 2 16 named) s =
      accept (s.updateOutputs fun o r => if named o then r.freed else r) [] := by
  simp only [releaseOutputOwn, mask_arg', if_neg (outputsNamed_nonempty hn), if_pos ((all_ownsOutput s p named).mpr hown),
    mem_outputsNamed, Output.release_eq]

/-- Settles O32: no output named, then one that is not the requester's, then all of them the requester's. -/
theorem releaseOutputFreesTheNamed : Obligations.ReleaseOutputFreesTheNamed := by
  intro p s f named h
  have answers := fun u st rs => exec_answered (c := .releaseOutput p) (u := u) (st := st) (rs := rs) h rfl rfl
  refine ⟨fun hnone => answers _ _ _ ?_, fun hforeign => answers _ _ _ ?_, fun hn hown => answers _ _ _ ?_⟩
  · simp only [releaseOutputOwn, mask_arg', if_pos ((filter_isEmpty named).mpr hnone), refuse]
  · have hn : ∃ o, named o = true := hforeign.imp fun _ => And.left
    simp only [releaseOutputOwn, mask_arg', if_neg (outputsNamed_nonempty hn),
      if_neg (not_all_ownsOutput (s := s.popRequest p) hforeign), refuse]
  · rw [releaseOutputOwn_accepts (s := s.popRequest p) hn hown]
    rfl

/-! ### WRITE_OUTPUTS -/

/-- A write in the terms of the statements (R135, R138). -/
theorem Output.write_eq (p : Port) (level : Bool) (r : Output) :
    r.write p level = r.reverified { r with state := .owned p, latch := level } := Output.become_eq _ _

/-- Both lists of a WRITE_OUTPUTS are empty (R135). -/
theorem writeLists_isEmpty (set clear : OutId → Bool) :
    (((List.finRange 16).filter fun o => set o).isEmpty && ((List.finRange 16).filter fun o => clear o).isEmpty) = true ↔
      ∀ o, set o = false ∧ clear o = false := by
  rw [Bool.and_eq_true, filter_isEmpty, filter_isEmpty, forall_and]

/-- An output stands in both lists of a WRITE_OUTPUTS (R135). -/
theorem writeLists_overlap (set clear : OutId → Bool) :
    (((List.finRange 16).filter fun o => set o).any fun o => decide (o ∈ (List.finRange 16).filter fun o => clear o)) = true ↔
      ∃ o, set o = true ∧ clear o = true := by
  simp [List.any_eq_true]

/-- Every output of both lists is the requester's (R135). -/
theorem writeLists_owned (s : State) (p : Port) (set clear : OutId → Bool) :
    (((List.finRange 16).filter fun o => set o).all (s.ownsOutput p) &&
        ((List.finRange 16).filter fun o => clear o).all (s.ownsOutput p)) = true ↔
      ∀ o, set o = true ∨ clear o = true → (s.outputs.at o).state.owner = some p := by
  rw [Bool.and_eq_true, all_ownsOutput, all_ownsOutput, ← forall_and]
  exact forall_congr' fun _ => or_imp.symm

/-- What WRITE_OUTPUTS makes of its two lists (R135). -/
theorem writeOutputsOwn_eq (p : Port) (s : State) (set clear : OutId → Bool) :
    let outcome := writeOutputsOwn p (maskBytes 2 16 set ++ maskBytes 2 16 clear) s
    let bad := (∀ o, set o = false ∧ clear o = false) ∨ ∃ o, set o = true ∧ clear o = true
    let mine := ∀ o, set o = true ∨ clear o = true → (s.outputs.at o).state.owner = some p
    (bad → outcome = refuse s .badArg) ∧
    (¬ bad → ¬ mine → outcome = refuse s .notOwner) ∧
    (¬ bad → mine → outcome = accept
      (s.updateOutputs fun o r => if set o then r.write p true else if clear o then r.write p false else r) []) := by
  intro outcome bad mine
  have hempty := writeLists_isEmpty set clear
  have hoverlap := writeLists_overlap set clear
  have howned := writeLists_owned s p set clear
  refine ⟨fun hbad => ?_, fun hgood hmine => ?_, fun hgood hmine => ?_⟩
  · rcases hbad with hnone | hboth
    · simp only [outcome, writeOutputsOwn, mask_arg, mask_arg2, if_pos (hempty.mpr hnone)]
    · simp only [outcome, writeOutputsOwn, mask_arg, mask_arg2, if_pos (hoverlap.mpr hboth), ite_self]
  · simp only [outcome, writeOutputsOwn, mask_arg, mask_arg2, if_neg fun h => hgood (.inl (hempty.mp h)),
      if_neg fun h => hgood (.inr (hoverlap.mp h)), if_neg fun h => hmine (howned.mp h)]
  · simp only [outcome, writeOutputsOwn, mask_arg, mask_arg2, if_neg fun h => hgood (.inl (hempty.mp h)),
      if_neg fun h => hgood (.inr (hoverlap.mp h)), if_pos (howned.mpr hmine)]
    simp only [mem_outputsNamed]

/-- Settles O33: the two lists, then the owners, and an accepted write is that of `Output.write_eq`. -/
theorem writeOutputsWritesTheLatches : Obligations.WriteOutputsWritesTheLatches := by
  intro p s f set clear h bad mine
  have answers := fun u st rs => exec_answered (c := .writeOutputs p) (u := u) (st := st) (rs := rs) h rfl rfl
  obtain ⟨badArg, notOwner, written⟩ := writeOutputsOwn_eq p (s.popRequest p) set clear
  refine ⟨fun hbad => answers _ _ _ (badArg hbad), fun hgood hmine => answers _ _ _ (notOwner hgood hmine),
    fun hgood hmine => answers _ _ _ ((written hgood hmine).trans ?_)⟩
  simp only [Output.write_eq]
  rfl

/-! ### READ_OUTPUTS -/

/-- The owner in its byte (R175). -/
theorem ownerByte_eq (owner : Option Port) : ownerByte owner = match owner with
    | none => 0
    | some .A => 1
    | some .B => 2 := by
  rcases owner with _ | _ | _ <;> rfl

/-- The output state in its byte (R178). -/
theorem outStateByte_eq (x : OutState) : x.byte = match x with
    | .free => 0
    | .owned _ => 1
    | .grace _ _ => 2
    | .safeHeld _ => 3 := by
  cases x <;> rfl

/-- The verify state in its byte (R178). -/
theorem verifyByte_eq (v : VerifyState) : v.byte = match v with
    | .off => 0
    | .waiting _ => 1
    | .deferred => 2
    | .ok => 3
    | .unverified => 4 := by
  cases v <;> rfl

/-- A level that may be unknown in its byte (R175). -/
theorem levelByte_eq (level : Option Bool) : levelByte level = match level with
    | some false => 0
    | some true => 1
    | none => 2 := by
  rcases level with _ | _ | _ <;> rfl

/-- The five flags of an output in their bits (R178). -/
theorem outputBits_eq : ∀ latch driven safe enable fault : Bool,
    let bit (value : Byte) (b : Bool) : Byte := if b then value else 0
    byteOf (bitsToNat [latch, driven, safe, enable, fault]) =
      bit 1 latch ||| bit 2 driven ||| bit 4 safe ||| bit 8 enable ||| bit 16 fault := by
  decide

/-- An accepted READ_OUTPUTS reports every output and clears the faults of the named ones (R137). -/
theorem readOutputsOwn_accepts {s : State} {p : Port} {named : OutId → Bool}
    (hown : ∀ o, named o = true → (s.outputs.at o).state.owner = some p) :
    readOutputsOwn p (maskBytes 2 16 named) s =
      accept (s.updateOutputs fun o r => if named o then { r with fault := false } else r)
        ((List.finRange 16).flatMap s.outputEntry) := by
  simp only [readOutputsOwn, mask_arg', if_pos ((all_ownsOutput s p named).mpr hown), mem_outputsNamed]

/-- Settles O35: one output named that is not the requester's, or none, and then the entries byte by byte. -/
theorem readOutputsReportsAndClears : Obligations.ReadOutputsReportsAndClears := by
  intro p s f named h
  have answers := fun u st rs => exec_answered (c := .readOutputs p) (u := u) (st := st) (rs := rs) h rfl rfl
  refine ⟨fun hforeign => answers _ _ _ ?_, fun hown => answers _ _ _ ?_⟩
  · simp only [readOutputsOwn, mask_arg', if_neg (not_all_ownsOutput (s := s.popRequest p) hforeign), refuse]
  · rw [readOutputsOwn_accepts (s := s.popRequest p) hown]
    refine answer_ext rfl rfl ?_
    dsimp only [accept]
    refine List.flatMap_congr fun o _ => ?_
    rw [State.outputEntry, ownerByte_eq, outStateByte_eq, outputBits_eq, verifyByte_eq, levelByte_eq]
    rfl

end Sys2Proof.Machine
end

section
/-! PROOFS. CONFIG_OUTPUT: its arguments, its refusals and the configuration written (spec/07, R136 and R142). -/

namespace Sys2Proof.Machine

open Sys2Proof

/-- The payload of CONFIG_OUTPUT (R176). -/
def outputConfigPayload (o safe grace enable time : Nat) : List Byte :=
  [byteOf o, byteOf safe] ++ leBytes 2 grace ++ [byteOf enable, byteOf time]

/-- The fields behind the output number read back (R175, R176). -/
theorem outputConfigPayload_fields (o : Nat) {safe grace enable time : Nat} (hs : safe < 256) (hg : grace < 65536)
    (he : enable < 256) (ht : time < 256) :
    let payload := outputConfigPayload o safe grace enable time
    argFlag payload 1 = (if safe ≤ 1 then some (decide (safe = 1)) else none) ∧
      argLe payload 2 2 = grace ∧
      argFlag payload 4 = (if enable ≤ 1 then some (decide (enable = 1)) else none) ∧
      arg8 payload 5 = time := by
  intro payload
  have h1 : arg8 payload 1 = safe := byteOf_small hs
  have h4 : arg8 payload 4 = enable := byteOf_small he
  have hgrace : argLe payload 2 2 = grace % 256 ^ 2 := argLe_append [byteOf o, byteOf safe] _ 2 grace
  refine ⟨?_, ?_, ?_, byteOf_small ht⟩
  · rw [argFlag_eq, h1]
  · rw [hgrace, Nat.mod_eq_of_lt (by omega)]
  · rw [argFlag_eq, h4]

/-- A configuration in the terms of the statements (R136, R142). -/
theorem Output.configure_eq (safe : Bool) (grace : Nat) (enable : Prop) [Decidable enable] (time : Nat) (r : Output) :
    r.configure safe grace (decide enable) time =
      { r with
        safe := safe, grace := grace, verifyEnable := decide enable, verifyTime := time
        verify := if enable then .waiting none else .off } := by
  simp only [Output.configure, Output.restartVerify, decide_eq_true_eq]

/-- CONFIG_OUTPUT with an argument out of range (R136). -/
theorem configOutputOwn_badArg (p : Port) (s : State) {o safe grace enable time : Nat} (ho : o < 256) (hs : safe < 256)
    (hg : grace < 65536) (he : enable < 256) (ht : time < 256)
    (hbad : ¬ (o ≤ 15 ∧ safe ≤ 1 ∧ grace ≤ 60000 ∧ enable ≤ 1 ∧ 1 ≤ time ∧ time ≤ 250)) :
    configOutputOwn p (outputConfigPayload o safe grace enable time) s = refuse s .badArg := by
  obtain ⟨hsafe, hgrace, henable, htime⟩ := outputConfigPayload_fields o hs hg he ht
  have hout : arg16th (outputConfigPayload o safe grace enable time) 0 = if h : o < 16 then some ⟨o, h⟩ else none :=
    arg16th_eq ho
  rw [configOutputOwn, hout, hsafe, hgrace, henable, htime]
  by_cases hor : o < 16
  · by_cases hsr : safe ≤ 1
    · by_cases her : enable ≤ 1
      · rw [dif_pos hor, if_pos hsr, if_pos her]
        exact if_neg (by omega)
      · rw [dif_pos hor, if_pos hsr, if_neg her]
    · rw [dif_pos hor, if_neg hsr]
  · rw [dif_neg hor]

/-- CONFIG_OUTPUT with its arguments in range is decided by the owner of the output (R136). -/
theorem configOutputOwn_inRange (p : Port) (s : State) (k : OutId) {safe grace enable time : Nat} (hs : safe ≤ 1)
    (hg : grace ≤ 60000) (he : enable ≤ 1) (ht : 1 ≤ time ∧ time ≤ 250) :
    configOutputOwn p (outputConfigPayload k.val safe grace enable time) s =
      if s.ownsOutput p k then
        accept (s.putOutput k ((s.outputs.at k).configure (decide (safe = 1)) grace (decide (enable = 1)) time)) []
      else refuse s .notOwner := by
  obtain ⟨hsafe, hgrace, henable, htime⟩ := outputConfigPayload_fields (safe := safe) (grace := grace) (enable := enable)
    (time := time) k.val (by omega) (by omega) (by omega) (by omega)
  have hout : arg16th (outputConfigPayload k.val safe grace enable time) 0 = some k := arg16th_set k _
  rw [configOutputOwn, hout, hsafe, hgrace, henable, htime, if_pos hs, if_pos he]
  exact if_pos ⟨hg, ht⟩

/-- Settles O34: the ranges, then the owner, and an accepted configuration is that of `Output.configure_eq`. -/
theorem configOutputWritesTheFields : Obligations.ConfigOutputWritesTheFields := by
  intro p s f o safe grace enable time ho hs hg he ht h inRange
  have answers := fun u st rs => exec_answered (c := .configOutput p) (u := u) (st := st) (rs := rs) h rfl rfl
  refine ⟨fun hbad => answers _ _ _ (configOutputOwn_badArg p _ ho hs hg he ht hbad), fun hgood k hk => ?_⟩
  obtain ⟨-, hsafe, hgrace, henable, htime⟩ := hgood
  subst hk
  have decided := configOutputOwn_inRange p (s.popRequest p) k hsafe hgrace henable htime
  refine ⟨fun hforeign => answers _ _ _ (decided.trans ?_), fun hown => answers _ _ _ (decided.trans ?_)⟩
  · exact if_neg fun howns => hforeign (of_decide_eq_true howns)
  · rw [if_pos (show (s.popRequest p).ownsOutput p k = true from decide_eq_true hown), Output.configure_eq]
    rfl

end Sys2Proof.Machine
end

section
/-! PROOFS. A reset while it is asserted: no command but a reset source acts, and every step keeps the reset values (spec/08, R150;
spec/09, R170; log 9). -/

namespace Sys2Proof.Machine

open Sys2Proof

/-! ### The values that a reset gives -/

/-- A state that differs from the reset state in its reset record, ports, orders and queue alone has the reset values, once its
ports are those of a reset (R156, R170). -/
theorem atResetValues_of_only {s : State} {rateA rateB : BitRate}
    (h : State.reset.changesOnly [.reset, .ports, .orders, .queue] s)
    (hports : s.ports = ⟨LinkPort.reset rateA, LinkPort.reset rateB⟩) : s.atResetValues rateA rateB ∧ s.now = 0 := by
  obtain ⟨⟨_, hlines, hsets, houtputs, hsessions, _⟩, _⟩ := resetGivesTheStatedValues
  obtain ⟨time, now⟩ : s.time = 0 ∧ s.now = 0 := h .clock (by decide)
  have lines : s.lines = State.reset.lines := h .lines (by decide)
  have sets : s.sets = State.reset.sets := h .sets (by decide)
  have outputs : s.outputs = State.reset.outputs := h .outputs (by decide)
  have sessions : s.sessions = State.reset.sessions := h .sessions (by decide)
  have journals : s.journals = State.reset.journals := h .journals (by decide)
  have engines : s.engines = State.reset.engines := h .engines (by decide)
  refine ⟨⟨time, ?_, ?_, ?_, ?_, fun p => ?_⟩, now⟩
  · rwa [lines]
  · rwa [sets]
  · rwa [outputs]
  · rwa [sessions, journals, engines]
  · rw [hports]
    cases p <;> rfl

/-- The reset of the blocks gives the reset values and keeps the bit rates (R156, R157). -/
theorem blocksReset_atResetValues (s : State) :
    s.blocksReset.atResetValues s.ports.a.bitRate s.ports.b.bitRate ∧ s.blocksReset.now = 0 :=
  atResetValues_of_only (by rw [co_iff]; simp [Block.same, State.blocksReset]) rfl

/-- A source that asserts reset gives the reset values at once (R155; log 9). -/
theorem assertReset_atResetValues (s : State) (cause : ResetCause) :
    (s.assertReset cause).atResetValues s.ports.a.bitRate s.ports.b.bitRate ∧ (s.assertReset cause).now = 0 :=
  blocksReset_atResetValues _

/-! ### What an asserted reset stops -/

/-- While a reset is asserted a guarded command does nothing (R150, R170; log 9). -/
theorem whenRunning_reset {s : State} (h : s.resetPeriod ≠ none) (f : State → State) : whenRunning s f = .next s := by
  rw [whenRunning, State.inReset, if_pos (Option.isSome_iff_ne_none.mpr h)]

/-- Without a frame to take no frame is rejected. -/
theorem takeReject_none {s : State} {p : Port} (h : s.nextRequest p = none) : s.takeReject p = s := by
  rw [State.takeReject, h]

/-- A handler that has no frame to take leaves the state as it is, whichever of its commands is named (R165; log 1). -/
theorem exec_handler_none {s : State} {p : Port} (h : s.nextRequest p = none) (k : ReqKind) :
    exec (k.command p) s = .next s ∧ exec (.reject p) s = .next s := by
  refine ⟨?_, congrArg Host.Outcome.next (takeReject_none h)⟩
  rw [exec_take, takeRequest_none h]

/-- Settles O3: no handler has a frame to take, every other command of a running part is guarded, and what is left are the reset
sources. -/
theorem nothingHappensWhileResetIsAsserted : Obligations.NothingHappensWhileResetIsAsserted := by
  intro c s hr hc
  have idle := fun p => exec_handler_none (nextRequest_reset hr p)
  have guarded := whenRunning_reset hr
  rcases cmd_cases c with ⟨k, p, rfl⟩ | ⟨p, rfl⟩ | ⟨l, hline⟩ | ⟨l, rfl⟩ | ⟨p, hport⟩ | ⟨o, houtput⟩ | ⟨p, b, x, rfl⟩ |
    ⟨p, x, rfl⟩ | ⟨x, hsource⟩ | rfl | rfl | rfl | ⟨raw, rfl⟩
  · exact (idle p k).1
  · exact (idle p .hello).2
  · rcases hline with rfl | rfl | rfl | rfl <;> exact guarded _
  · exact guarded _
  · rcases hport with rfl | rfl | rfl | rfl | rfl | rfl | rfl | rfl
    · exact guarded (·.buildNotice p)
    · exact guarded (·.expireRetransmit p)
    · exact guarded (·.expireSilence p)
    · exact guarded (·.expireRetain p)
    · exact guarded (·.expireGap p)
    · exact guarded (·.sendResponse p)
    · exact guarded (·.endFrame p)
    · exact guarded (·.lineIdle p)
  · rcases houtput with rfl | rfl
    · exact guarded (·.expireGrace o)
    · exact guarded (·.verifyOutput o)
  · exact guarded (·.receive p b x)
  · exact guarded _
  · rcases hsource with rfl | rfl | rfl <;> contradiction
  · contradiction
  · contradiction
  · contradiction
  · exact guarded (·.takeAllDue.tick raw)

/-! ### Every step keeps the reset values -/

/-- A running part is not held in reset. -/
theorem heldInReset_of_running {s : State} (h : s.resetPeriod = none) : s.heldInReset := fun hr => absurd h hr

/-- A change that spares the reset record leaves a running part running. -/
theorem heldInReset_of_only {s t : State} {bs : List Block} (h : s.changesOnly bs t) (hb : Block.reset ∉ bs)
    (hr : s.resetPeriod = none) : t.heldInReset := by
  obtain ⟨_, _, period, _⟩ := h .reset hb
  exact heldInReset_of_running (period.trans hr)

/-- A due event that is taken leaves a running part running. -/
theorem heldInReset_takeDue {s : State} (d : Due) (hr : s.resetPeriod = none) : (s.takeDue d).heldInReset :=
  heldInReset_of_only (takeDue_only s d) (by decide) hr

/-- The end of a period leaves no reset in progress, and a period that goes on stays as it was (R149). -/
theorem heldInReset_endReset {s : State} (straps : Straps) (hs : s.heldInReset) : (s.endReset straps).heldInReset := by
  unfold State.endReset
  split
  · exact hs
  · split
    · exact heldInReset_of_running rfl
    · exact hs

/-- The parts of a running command leave the part running; a source that asserts reset gives the reset values, and what follows
until the period ends keeps them. -/
theorem heldInReset_closed : Closed State.heldInReset where
  own k p payload s hr _ _ _ := heldInReset_of_running ((rule_running k p payload s).trans hr)
  pop _ _ hr _ := heldInReset_of_running hr
  respond _ _ _ _ _ _ hr _ _ := heldInReset_of_running hr
  line _ l hr _ := heldInReset_takeDue (.line l) hr
  notice s p hr _ := heldInReset_of_only (buildNotice_only s p) (by decide) hr
  retransmit _ p hr _ := heldInReset_takeDue (.retransmit p) hr
  silence _ p hr _ := heldInReset_takeDue (.silence p) hr
  retain _ p hr _ := heldInReset_takeDue (.retain p) hr
  grace _ o hr _ := heldInReset_takeDue (.grace o) hr
  verify _ o hr _ := heldInReset_takeDue (.verify o) hr
  receive s p c x hr _ := heldInReset_of_only (receive_only s p c x) (by decide) hr
  gap _ p hr _ := heldInReset_takeDue (.gap p) hr
  send s p hr _ := heldInReset_of_only (sendResponse_only s p) (by decide) hr
  ends s p hr _ := heldInReset_of_only (endFrame_only s p) (by decide) hr
  idle _ _ hr _ := heldInReset_of_running hr
  choice _ _ hr _ := heldInReset_of_running hr
  tick _ _ hr _ := heldInReset_of_running hr
  asserted s cause := fun _ => ⟨_, _, assertReset_atResetValues s cause⟩
  sources _ _ _ _ hs := hs
  released _ x hs := heldInReset_endReset x hs
  queue _ _ hs := hs

/-- Settles O55: every part of every command keeps an asserted reset. -/
theorem everyStepKeepsTheReset : Obligations.EveryStepKeepsTheReset := heldInReset_closed.step

/-! ### The reset state -/

/-- The reset state holds nothing (R156). -/
theorem emptied_reset : State.reset.Emptied := emptied_blocksReset State.reset

/-- Settles O53: an emptied part meets the invariants of sets, journals and sessions, and the reset state is running. -/
theorem resetMeetsTheInvariants : Obligations.ResetMeetsTheInvariants := by
  have lists : State.reset.lostListed := (lostListed_iff _).mpr fun p => by
    rw [emptied_reset.sessions p]
    exact listed_empty rfl rfl
  have law : State.reset.snapshotLaw := fun w ws hw => by
    rw [emptied_reset.sets w] at hw
    contradiction
  exact ⟨emptied_poolKept emptied_reset, queuesKept_of_reset rfl, heldInReset_of_running rfl, numbered_of_reset rfl rfl rfl,
    emptied_owned emptied_reset, lists, emptied_fitted emptied_reset, law⟩

end Sys2Proof.Machine
end

section
/-! PROOFS. The transmitter: RESPONSE_SEND and FRAME_END, and the frame whose end is RESTART_RESET (spec/09, R168 and R169;
spec/08, R154). -/

namespace Sys2Proof.Machine

open Sys2Proof

/-- The transmitter sends the OK response of a pending RESTART (R152, R154, R174). -/
theorem sendingRestart_iff {port : LinkPort} {f : Frame} (h : port.sending = some f) :
    port.sendingRestart = true ↔ port.restartPending = true ∧ f.kind = 0x9F ∧ f.payload.head? = some 0 := by
  have kind : responseKind ReqKind.restart.code = 0x9F := rfl
  have status : Status.ok.byte = 0 := rfl
  simp only [LinkPort.sendingRestart, h, Frame.isRestartOk, kind, status, Bool.and_eq_true, decide_eq_true_eq]

/-- Settles O51: each command has one case of its operation to take. -/
theorem theTransmitterSendsAndEnds : Obligations.TheTransmitterSendsAndEnds := by
  intro p s hr port
  refine ⟨fun f rest hfree hqueue => ?_, fun f hsending hother => ?_⟩
  · have sends : s.sendResponse p = s.putPort p { port with sending := some f, responses := rest } := by
      simp only [State.sendResponse, show (s.ports.at p).sending = none from hfree,
        show (s.ports.at p).responses = f :: rest from hqueue]
      rfl
    exact (whenRunning_running hr (·.sendResponse p)).trans (congrArg Host.Outcome.next sends)
  · have notRestart : ¬ port.sendingRestart = true := by
      rw [sendingRestart_iff hsending]
      rintro ⟨hpending, hkind, hstatus⟩
      rcases hother with hidle | hkind' | hstatus'
      · rw [hpending] at hidle
        contradiction
      · exact hkind' hkind
      · exact hstatus' hstatus
    have ends : s.endFrame p = s.putPort p { port with sending := none } := if_neg notRestart
    exact (whenRunning_running hr (·.endFrame p)).trans (congrArg Host.Outcome.next ends)

end Sys2Proof.Machine
end

section
/-! PROOFS. The events that assert and end a reset (spec/08, R149 to R157; logs 12 and 23). -/

namespace Sys2Proof.Machine

open Sys2Proof

/-! ### The sources of a reset -/

/-- Settles O4: each source raises its own flag and asserts reset with its cause. -/
theorem sourcesAssertReset : Obligations.SourcesAssertReset := fun s =>
  ⟨⟨_, rfl, (assertReset_atResetValues { s with rstnLow := true } .pin).1, rfl, rfl, rfl, rfl, rfl, rfl, rfl⟩,
    ⟨_, rfl, (assertReset_atResetValues { s with dipLow := true } .supplyDip).1, rfl, rfl, rfl, rfl, rfl, rfl, rfl⟩,
    _, rfl, (assertReset_atResetValues { s with powerLow := true } .powerOn).1, rfl, rfl, rfl, rfl, rfl, rfl, rfl⟩

/-! ### The end of a reset period -/

/-- The count that a reset writes (R149). -/
theorem countReset_eq (cause : ResetCause) (n : Nat) :
    countReset cause n = if cause = .powerOn then 0 else min 255 (n + 1) := by cases cause <;> rfl

/-- No source asserts reset when each of the three flags is clear. -/
theorem released_iff (s : State) : s.released = true ↔ s.rstnLow = false ∧ s.dipLow = false ∧ s.powerLow = false := by
  simp only [State.released, Bool.and_eq_true, Bool.not_eq_true', and_assoc]

/-- The state t after the end, with these straps, of a reset period of this cause in s: cause and count are written, and every
block has its reset values at the rates of the straps (R149, R156, R157). -/
def State.resetEndedAs (s : State) (x : Straps) (cause : ResetCause) (t : State) : Prop :=
  t.atResetValues (strapRate x.a1 x.a0) (strapRate x.b1 x.b0) ∧ t.resetPeriod = none ∧ t.resetCause = cause ∧
    t.resetCount = (if cause = .powerOn then 0 else min 255 (s.resetCount + 1)) ∧ t.rstnLow = false ∧ t.dipLow = false ∧
    t.powerLow = false ∧ t.pending = s.pending

/-- A reset period ends once no source asserts reset (R149). -/
theorem endReset_ends {s : State} {cause : ResetCause} (x : Straps) (hp : s.resetPeriod = some cause)
    (hrstn : s.rstnLow = false) (hdip : s.dipLow = false) (hpower : s.powerLow = false) :
    s.resetEndedAs x cause (s.endReset x) := by
  have released : s.released = true := (released_iff s).mpr ⟨hrstn, hdip, hpower⟩
  rw [State.endReset, hp]
  simp only [released, if_true]
  exact ⟨(atResetValues_of_only (by rw [co_iff]; simp [Block.same, State.blocksReset]) rfl).1, rfl, rfl,
    countReset_eq cause _, hrstn, hdip, hpower, rfl⟩

/-- A reset period goes on while a source asserts reset (R149). -/
theorem endReset_held {s : State} (x : Straps) (h : ¬ s.released = true) : s.endReset x = s := by
  unfold State.endReset
  split
  · rfl
  · exact if_neg h

/-- RESTART_RESET at the end of the OK response of a pending RESTART (R154). -/
theorem exec_restartReset {s : State} {p : Port} {f : Frame} (hr : s.resetPeriod = none)
    (hpending : (s.ports.at p).restartPending = true) (hsending : (s.ports.at p).sending = some f) (hkind : f.kind = 0x9F)
    (hstatus : f.payload.head? = some 0) (period : RestartPeriod) :
    exec (.restartReset p period) s = .next (s.restartBy period) := by
  have sends : (s.ports.at p).sendingRestart = true := (sendingRestart_iff hsending).mpr ⟨hpending, hkind, hstatus⟩
  show whenRunning s _ = _
  rw [whenRunning_running hr, if_pos sends]

/-- The state t after a RESTART's reset period has begun in s (R149, R154; log 23). -/
def State.restartBegunIn (s t : State) : Prop :=
  t.atResetValues s.ports.a.bitRate s.ports.b.bitRate ∧ t.resetPeriod = some .restart ∧ t.powerLow = s.powerLow ∧
    t.resetCause = s.resetCause ∧ t.resetCount = s.resetCount ∧ t.pending = s.pending

/-- The reset of a RESTART in a running part begins a period with its cause (R154). -/
theorem assertReset_restart {s : State} (hr : s.resetPeriod = none) : s.restartBegunIn (s.assertReset .restart) := by
  have period : (s.assertReset .restart).resetPeriod = some (s.resetPeriod.getD .restart) := rfl
  rw [hr] at period
  exact ⟨(assertReset_atResetValues s .restart).1, period, rfl, rfl, rfl, rfl⟩

/-- Settles O5: the event takes its source away or begins a period, and then the period ends or goes on by the sources left. -/
theorem resetPeriodsEnd : Obligations.ResetPeriodsEnd := by
  refine ⟨fun s x cause => ?_, fun s x _ => ⟨fun hsource => ?_, fun hrstn => ?_⟩,
    fun p s f hr hpending hsending hkind hstatus => ?_⟩
  · refine ⟨fun hp hdip hpower => ?_, fun hp hrstn => ?_, fun hcause hrstn hdip => ?_,
      fun hcause hr hrstn hdip hpower p f hpending hsending hkind hstatus => ?_⟩
    · exact ⟨_, rfl, endReset_ends (s := { s with rstnLow := false }) x hp rfl hdip hpower⟩
    · exact ⟨_, rfl, endReset_ends (s := { s with dipLow := false, powerLow := false }) x hp hrstn rfl rfl⟩
    · subst hcause
      exact ⟨_, rfl, endReset_ends (s := ({ s with powerLow := false } : State).assertReset .powerOn) x rfl hrstn hdip rfl⟩
    · subst hcause
      obtain ⟨_, period, _⟩ := assertReset_restart hr
      exact ⟨_, exec_restartReset hr hpending hsending hkind hstatus (.own x),
        endReset_ends (s := s.assertReset .restart) x period hrstn hdip hpower⟩
  · have held : ¬ ({ s with rstnLow := false } : State).released = true := by
      rw [released_iff]
      rintro ⟨-, hdip, hpower⟩
      exact hsource.elim (fun h => Bool.false_ne_true (hdip.symm.trans h))
        fun h => Bool.false_ne_true (hpower.symm.trans h)
    exact congrArg Host.Outcome.next (endReset_held x held)
  · have held : ¬ ({ s with dipLow := false, powerLow := false } : State).released = true := by
      rw [released_iff]
      rintro ⟨hclear, -⟩
      exact Bool.false_ne_true (hclear.symm.trans hrstn)
    exact congrArg Host.Outcome.next (endReset_held x held)
  · have resets := exec_restartReset hr hpending hsending hkind hstatus
    exact ⟨⟨_, resets .withPin, assertReset_restart (s := { s with rstnLow := true }) hr, rfl, rfl⟩,
      _, resets .withDip, assertReset_restart (s := { s with dipLow := true }) hr, rfl, rfl⟩

end Sys2Proof.Machine
end

section
/-! PROOFS. The code tables, REJECT, and the requests HELLO and RESTART (spec/08, R148 and R152; spec/10, R171 to R177). -/

namespace Sys2Proof.Machine

open Sys2Proof

/-- Settles O8: the tables are those of the model, entry by entry. -/
theorem theCodesAreThoseOfTheTables : Obligations.TheCodesAreThoseOfTheTables :=
  ⟨⟨rfl, rfl, rfl⟩, rfl, rfl, rfl, rfl⟩

/-! ### REJECT -/

/-- The handler waits with no frame in its queue, with no room for a response, or behind a pending RESTART (R165, R153). -/
theorem nextRequest_waits {s : State} {p : Port}
    (h : (s.ports.at p).requests = [] ∨ 4 ≤ (s.ports.at p).responses.length ∨ (s.ports.at p).restartPending = true) :
    s.nextRequest p = none := by
  refine Option.eq_none_iff_forall_ne_some.mpr fun f hf => ?_
  obtain ⟨_, hpending, hroom, hfront⟩ := nextRequest_eq_some.mp hf
  rcases h with hempty | hfull | hrestart
  · rw [hempty] at hfront
    contradiction
  · exact absurd hroom (Nat.not_lt.mpr hfull)
  · rw [hrestart] at hpending
    contradiction

/-- Settles O7: a frame of no request kind is REJECT's, and a handler that waits has no frame to take. -/
theorem unknownKindsAreRejected : Obligations.UnknownKindsAreRejected := by
  refine ⟨fun p s f htakes hkind => ?_, fun k p s hwaits => exec_handler_none (nextRequest_waits hwaits) k⟩
  have unknown : ¬ isRequestKind f.kind = true := fun h => by
    obtain ⟨k, hk⟩ := isRequestKind_iff _ h
    exact hkind k hk
  have rejected : s.takeReject p = (s.popRequest p).respond p rejectKind f.tag .badRequest [] := by
    rw [State.takeReject, nextRequest_eq_some.mpr htakes]
    exact if_neg unknown
  exact congrArg Host.Outcome.next (rejected.trans (respond_popRequest s p f rejectKind .badRequest []))

/-! ### HELLO -/

/-- One session as HELLO reports it (R148, R175, R177). -/
theorem helloSession_eq (st : SessState) : helloSession st = match st with
    | .closed => [0, 0, 0, 0]
    | .opened prm _ => [1] ++ leBytes 2 prm.tag.toNat ++ [0]
    | .lapsed prm .silence _ => [2] ++ leBytes 2 prm.tag.toNat ++ [1]
    | .lapsed prm .retry _ => [2] ++ leBytes 2 prm.tag.toNat ++ [2] := by
  match st with
  | .closed => rfl
  | .opened prm _ => rfl
  | .lapsed prm .silence _ => rfl
  | .lapsed prm .retry _ => rfl

/-- The report of HELLO field by field (R148, R177). -/
theorem helloResults_eq (s : State) : helloResults s =
    [0x91, 0x3E, 0x16, 0x48, 1, 64, 16, 16, 0x00, 0x01, s.resetCause.byte, BitVec.ofNat 8 s.resetCount] ++
      helloSession (s.sessions.at .A).state ++ helloSession (s.sessions.at .B).state ++
      [BitVec.ofNat 8 ((List.finRange 64).countP fun l => (s.lines.at l).state.isInit)] := by
  have identity : leBytes 2 Config.vendorCode ++ leBytes 2 Config.partCode ++ [byteOf Config.revision, 64, 16, 16] ++
      leBytes 2 Config.slots = [0x91, 0x3E, 0x16, 0x48, 1, 64, 16, 16, 0x00, 0x01] := by decide
  rw [helloResults, identity, State.linesInInit, List.countP_eq_length_filter]
  rfl

/-- Settles O9: the rule of HELLO is its report. -/
theorem helloReportsThePart : Obligations.HelloReportsThePart := by
  intro p s f h session
  have sessions : ∀ q, session q = helloSession (s.sessions.at q).state := fun q => (helloSession_eq _).symm
  refine exec_answered h rfl rfl ?_
  rw [helloOwn, helloResults_eq, sessions, sessions]
  rfl

/-! ### RESTART -/

/-- Settles O15: force is a flag or refused, and a RESTART that is not forced looks at the other session. -/
theorem restartBecomesPending : Obligations.RestartBecomesPending := by
  intro p s f force hforce h
  have answers := fun u st rs => exec_answered (c := .restart p) (u := u) (st := st) (rs := rs) h rfl rfl
  have isFlag := argFlag_byte hforce
  refine ⟨fun hflag hfree => answers _ _ _ ?_, fun hclear hopen => answers _ _ _ ?_, fun hhigh => answers _ _ _ ?_⟩
  · have passes : ¬ ((s.popRequest p).isOpen p.other && !decide (force = 1)) = true := by
      rcases hfree with hidle | hset
      · simp [hidle]
      · simp [hset]
    rw [restartOwn, isFlag, if_pos hflag]
    dsimp only
    rw [if_neg passes]
    simp [accept, State.popRequest, State.putPort]
  · subst hclear
    have blocked : ((s.popRequest p).isOpen p.other && !decide (0 = 1)) = true := by simp [hopen]
    rw [restartOwn, isFlag, if_pos (Nat.zero_le 1)]
    exact if_pos blocked
  · rw [restartOwn, isFlag, if_neg (by omega)]
    rfl

end Sys2Proof.Machine
end

section
/-! PROOFS. The encodings: records, masks and level lists byte by byte, the frame check bit by bit, and the frame on the line
(spec/09, R159 and R168; spec/10, R175 and R180). -/

namespace Sys2Proof.Machine

open Sys2Proof

/-! ### Masks and level lists -/

/-- Bit i of a run of levels written in bytes is the i-th level, and 0 beyond the last (R175). -/
theorem leBytes_bitsToNat_bit (levels : List Bool) {k i : Nat} (h : i < 8 * k) :
    ∃ b, (leBytes k (bitsToNat levels))[i / 8]? = some b ∧ b.getLsbD (i % 8) = levels.getD i false := by
  rw [← testBit_bitsToNat]
  exact leBytes_bit k (bitsToNat levels) i h

/-- A predicate listed over n things holds of the i-th as it does of i, and of none beyond the last. -/
theorem getD_map_finRange {n : Nat} (holds : Fin n → Bool) (i : Nat) :
    ((List.finRange n).map holds).getD i false = if h : i < n then holds ⟨i, h⟩ else false := by
  by_cases h : i < n <;> simp [h]

/-- A level list takes a byte for each eight levels begun (R175). -/
@[simp] theorem levelListBytes_length (levels : List Bool) :
    (levelListBytes levels).length = (levels.length + 7) / 8 := leBytes_length ..

/-! ### Records -/

/-- A record has its kind and its PRESENT byte, its stamp in four bytes, and its fields (R180). -/
theorem Rec.bytes_length (r : Rec) : r.bytes.length = 6 + r.body.fieldBytes.length := by
  simp only [Rec.bytes, List.length_append, List.length_cons, List.length_nil, leBytes_length]

/-- A RESYNC_MARK has its set, the number of its members and their level list as fields (R180). -/
theorem fieldBytes_resyncMark_length (w : SetId) (levels : List Bool) :
    (RecBody.resyncMark w levels).fieldBytes.length = 2 + (levels.length + 7) / 8 := by
  simp only [RecBody.fieldBytes, List.length_append, List.length_cons, List.length_nil, levelListBytes_length]

/-! ### The frame check -/

/-- The check of the text 123456789, a closed value that the kernel computes (R159). -/
theorem crc16_checkValue : crc16 [0x31, 0x32, 0x33, 0x34, 0x35, 0x36, 0x37, 0x38, 0x39] = 0x29B1 := by
  decide +kernel

/-- The check is carried on byte by byte (R159). -/
theorem crc16_append_byte (bytes : List Byte) (b : Byte) : crc16 (bytes ++ [b]) = crcByte (crc16 bytes) b := by
  rw [crc16, List.foldl_append]
  rfl

/-- A byte of the check is its eight shifts, each by the top bit (R159). -/
theorem crcByte_eq_foldl (c : BitVec 16) (b : Byte) : crcByte c b =
    (List.range 8).foldl (fun c _ => if c.getLsbD 15 then (c <<< 1) ^^^ 0x1021 else c <<< 1)
      (c ^^^ (b.zeroExtend 16 <<< 8)) := by
  have shift : (fun (c : BitVec 16) (_ : Nat) => if c.getLsbD 15 then (c <<< 1) ^^^ 0x1021 else c <<< 1) =
      fun c _ => crcShift c := by
    funext c _
    rw [crcShift, BitVec.msb_eq_getLsbD_last]
  rw [shift]
  rfl

/-- Settles O44: each part is the encoding's own equation. -/
theorem recordsAndFramesAreEncoded : Obligations.RecordsAndFramesAreEncoded := by
  refine ⟨fun stamp last old new w l o level readback n levels => ?_, ⟨crc16_checkValue, fun f => rfl⟩,
    ⟨rfl, fun bytes b => ?_⟩, fun k n => ⟨leBytes_length k n, fun j => leBytes_get k n j⟩,
    fun k n holds => ⟨maskBytes_length k n holds, fun i hi => ?_⟩,
    fun levels => ⟨levelListBytes_length levels, fun i hi => leBytes_bitsToNat_bit levels hi⟩⟩
  · refine ⟨rfl, rfl, rfl, rfl, rfl, rfl, rfl, rfl, fun _ => ?_⟩
    rw [Rec.bytes_length, fieldBytes_resyncMark_length]
    omega
  · rw [crc16_append_byte, crcByte_eq_foldl]
  · rw [← getD_map_finRange]
    exact leBytes_bitsToNat_bit _ hi

end Sys2Proof.Machine
end

section
/-! PROOFS. The receiver: what each of its states makes of a good character, of a framing error, of a break and of the expiry of
the gap timer (spec/09, R158 and R160 to R163; log 13). -/

namespace Sys2Proof.Machine

open Sys2Proof

/-! ### A character without a framing error -/

/-- In HUNT only SYNC begins a frame (R160). -/
theorem takeCharacter_hunt {s : State} {p : Port} (h : (s.ports.at p).receiver = .hunt) (c : Byte) :
    s.takeCharacter p c =
      if c = 0x96 then s.putPort p { s.ports.at p with receiver := .length (s.now + 40) } else s := by
  rw [State.takeCharacter, h]
  rfl

/-- A length within the bounds opens the body, and another discards the frame (R160). -/
theorem takeCharacter_length {s : State} {p : Port} {g : Nat} (h : (s.ports.at p).receiver = .length g) (c : Byte) :
    s.takeCharacter p c =
      if 2 ≤ c.toNat ∧ c.toNat ≤ 248 then s.putPort p { s.ports.at p with receiver := .body c [] (s.now + 40) }
      else s.putPort p (s.ports.at p).discard := by
  rw [State.takeCharacter, h]
  rfl

/-- A character of the body is stored, and the last of them opens the check (R160). -/
theorem takeCharacter_body {s : State} {p : Port} {len : Byte} {got : List Byte} {g : Nat}
    (h : (s.ports.at p).receiver = .body len got g) (c : Byte) :
    s.takeCharacter p c =
      if got.length + 1 < len.toNat then
        s.putPort p { s.ports.at p with receiver := .body len (got ++ [c]) (s.now + 40) }
      else s.putPort p { s.ports.at p with receiver := .crc len (got ++ [c]) none (s.now + 40) } := by
  have stores : s.takeCharacter p c = s.takeBody p c len got (s.now + 40) := by
    rw [State.takeCharacter, h]
    rfl
  rw [stores, State.takeBody, List.length_append, List.length_singleton]
  split <;> rfl

/-- The first check byte is held until the second comes (R161). -/
theorem takeCharacter_firstCheck {s : State} {p : Port} {len : Byte} {got : List Byte} {g : Nat}
    (h : (s.ports.at p).receiver = .crc len got none g) (c : Byte) :
    s.takeCharacter p c = s.putPort p { s.ports.at p with receiver := .crc len got (some c) (s.now + 40) } := by
  rw [State.takeCharacter, h]
  rfl

/-- Settles O48: one equation for each state of the receiver, and the gap timer that runs in all of them but HUNT. -/
theorem charactersBuildAFrame : Obligations.CharactersBuildAFrame := by
  refine ⟨fun p s c hr hi => ?_, fun p s gap hr hgap hreceiver => ?_⟩
  · rw [exec_characterReceived_good hr hi]
    exact ⟨fun h => congrArg Host.Outcome.next (takeCharacter_hunt h c),
      fun _ h => congrArg Host.Outcome.next (takeCharacter_length h c),
      fun _ _ _ h => congrArg Host.Outcome.next (takeCharacter_body h c),
      fun _ _ _ h => congrArg Host.Outcome.next (takeCharacter_firstCheck h c)⟩
  · have due : (s.ports.at p).receiver.gapDue s.now = true := (gapDue_iff _ _).mpr ⟨gap, hgap, hreceiver⟩
    have discards : s.expireGap p = s.putPort p (s.ports.at p).discard := if_pos due
    exact (whenRunning_running hr (·.expireGap p)).trans (congrArg Host.Outcome.next discards)

/-! ### Framing errors and breaks -/

/-- While the receiver waits for the idle line it takes no character, whatever its stop bit (R158). -/
theorem receive_awaiting {s : State} {p : Port} (h : (s.ports.at p).awaitIdle = true) (c : Byte) (stop : Framing) :
    s.receive p c stop = s := if_pos h

/-- A listening receiver takes a framing error, and after a break it waits for the idle line (R158). -/
theorem receive_listening {s : State} {p : Port} (h : (s.ports.at p).awaitIdle = false) (c : Byte) :
    s.receive p c .error = s.takeFramingError p ∧ s.receive p c .brk = (s.takeFramingError p).awaitIdle p := by
  have listens : ¬ (s.ports.at p).awaitIdle = true := by simp [h]
  exact ⟨if_neg listens, if_neg listens⟩

/-- A framing error in HUNT is dropped (R158). -/
theorem takeFramingError_hunt {s : State} {p : Port} (h : (s.ports.at p).receiver = .hunt) : s.takeFramingError p = s := by
  rw [State.takeFramingError, h]

/-- A framing error in a frame discards it (R158, R163). -/
theorem takeFramingError_inFrame {s : State} {p : Port} (h : (s.ports.at p).receiver ≠ .hunt) :
    s.takeFramingError p = s.putPort p (s.ports.at p).discard := by
  unfold State.takeFramingError
  cases hreceiver : (s.ports.at p).receiver with
  | hunt => exact absurd hreceiver h
  | length gap => rfl
  | body len got gap => rfl
  | crc len got low gap => rfl

/-- The wait for the idle line is the last write of the port (R158). -/
theorem awaitIdle_putPort (s : State) (p : Port) (port : LinkPort) :
    (s.putPort p port).awaitIdle p = s.putPort p { port with awaitIdle := true } := by
  simp [State.awaitIdle, State.putPort]

/-- Settles O50: by whether the receiver waits, and by whether it is in HUNT. -/
theorem framingErrorsDiscardAndBreaksWait : Obligations.FramingErrorsDiscardAndBreaksWait := by
  intro p s c stop hr port put discarded
  have receives (x : Framing) : exec (.characterReceived p c x) s = .next (s.receive p c x) :=
    whenRunning_running hr (·.receive p c x)
  refine ⟨fun hwaits => ?_, whenRunning_running hr (·.lineIdle p), fun hlistens hhunt => ?_, fun hlistens hframe => ?_⟩
  · rw [receives, receive_awaiting hwaits]
  · obtain ⟨error, brk⟩ := receive_listening hlistens c
    rw [receives, receives, error, brk, takeFramingError_hunt hhunt]
    exact ⟨rfl, rfl⟩
  · obtain ⟨error, brk⟩ := receive_listening hlistens c
    rw [receives, receives, error, brk, takeFramingError_inFrame hframe, awaitIdle_putPort]
    exact ⟨rfl, rfl⟩

end Sys2Proof.Machine
end

section
/-! PROOFS. One step, by what waits at the front of the queue (spec/95_what_each_step_holds.md; logs 1 and 8). -/

namespace Sys2Proof.Machine

open Sys2Proof

/-- On an empty queue the part idles (log 8). -/
theorem step_of_pending_nil {s : State} (h : s.pending = []) : step s = .next s := by
  rw [step, h]

/-- The front command takes place with the rest of the queue behind it (log 1). -/
theorem step_of_pending_cons {s : State} {c : Instr} {rest : List Instr} (h : s.pending = c :: rest) :
    step s = exec c { s with pending := rest } := by
  rw [step, h]

/-- Settles O1: with c put in front of s's queue, the queue's rest is s's own queue, and the state the command runs on is s. -/
theorem stepRunsTheFrontCommand : Obligations.StepRunsTheFrontCommand :=
  ⟨fun c s => step_of_pending_cons (s := { s with pending := c :: s.pending }) rfl, fun _ => step_of_pending_nil⟩

end Sys2Proof.Machine
end
